-- ==== Sys2Proof/Word.lean ====
section
/-! DEFINITION. The 8-bit values of the hardware: a command word and a byte of the FILL stream. Wider values are
`BitVec w` for the width `w` the configuration gives (spec/00_scope.md R4, R5, R11). -/

namespace Sys2Proof

/-- One byte of the FILL stream (20_memory.md R51). -/
abbrev Byte := BitVec 8

/-- A command word, exactly 8 bits (30_encoding.md R70). -/
abbrev CmdWord := BitVec 8

end Sys2Proof
end

