-- ==== Sys2Proof/Config.lean ====
section
/-! DEFINITION. What is fixed when an instance is built (00_scope.md R4 to R10): the admitted configurations, the output
tap, and the configuration record with every parameter the spec names. The default VALUES are in Machine/Params.lean.
No free value is kept here: every open value of this hardware is a parameter of this record or an input of a
transaction (notes/assumptions/1.md and 5.md). -/

namespace Sys2Proof

/-- The closed set of output permutations (00_scope.md R6). -/
inductive PermKind where
  | xshRr
  | xshRs
  | rxsMXs
  | xslRr
deriving DecidableEq, Repr

/-- The seven admitted configurations (00_scope.md R10). No other (W, O, PERM) is a value of this type. -/
inductive Variant where
  /-- CFG-64-32-XSHRR, the default -/
  | cfg64x32XshRr
  /-- CFG-128-64-XSHRR -/
  | cfg128x64XshRr
  /-- CFG-32-16-XSHRR -/
  | cfg32x16XshRr
  /-- CFG-64-32-XSHRS -/
  | cfg64x32XshRs
  /-- CFG-64-64-RXSMXS -/
  | cfg64x64RxsMXs
  /-- CFG-32-32-RXSMXS -/
  | cfg32x32RxsMXs
  /-- CFG-128-64-XSLRR -/
  | cfg128x64XslRr
deriving DecidableEq, Repr

/-- W, the state width (00_scope.md R4, R10). -/
def Variant.stateWidth : Variant → Nat
  | .cfg64x32XshRr => 64
  | .cfg128x64XshRr => 128
  | .cfg32x16XshRr => 32
  | .cfg64x32XshRs => 64
  | .cfg64x64RxsMXs => 64
  | .cfg32x32RxsMXs => 32
  | .cfg128x64XslRr => 128

/-- O, the output width (00_scope.md R5, R10). -/
def Variant.outWidth : Variant → Nat
  | .cfg64x32XshRr => 32
  | .cfg128x64XshRr => 64
  | .cfg32x16XshRr => 16
  | .cfg64x32XshRs => 32
  | .cfg64x64RxsMXs => 64
  | .cfg32x32RxsMXs => 32
  | .cfg128x64XslRr => 64

/-- PERM, the output permutation (00_scope.md R6, R10). -/
def Variant.perm : Variant → PermKind
  | .cfg64x32XshRr => .xshRr
  | .cfg128x64XshRr => .xshRr
  | .cfg32x16XshRr => .xshRr
  | .cfg64x32XshRs => .xshRs
  | .cfg64x64RxsMXs => .rxsMXs
  | .cfg32x32RxsMXs => .rxsMXs
  | .cfg128x64XslRr => .xslRr

/-- Every admitted configuration, in the order of the table of 00_scope.md R10. -/
def Variant.all : List Variant :=
  [.cfg64x32XshRr, .cfg128x64XshRr, .cfg32x16XshRr, .cfg64x32XshRs, .cfg64x64RxsMXs, .cfg32x32RxsMXs,
    .cfg128x64XslRr]

/-- The configuration a triple (W, O, PERM) names; any other triple is refused (00_scope.md R10, decision D10). -/
def Variant.ofTriple (w o : Nat) (p : PermKind) : Option Variant :=
  Variant.all.find? fun v => v.stateWidth == w && v.outWidth == o && v.perm == p

/-- OUT_TAP: the state NEXT permutes, after (NEW) or before (OLD) the advance (00_scope.md R8). -/
inductive OutTap where
  | new
  | old
deriving DecidableEq, Repr

/-- The constants of XSH_RR (41_output_permutation.md R134; 93_implementation_defined.md U6). -/
structure XshRrConsts where
  /-- B, how many top bits of the state choose the rotate amount -/
  selBits : Nat
  /-- XS, the shift of the xorshift -/
  xorShift : Nat
  /-- DS, the shift before the truncation -/
  downShift : Nat
deriving DecidableEq, Repr

/-- A function of the state, written out as data: the form in which a configuration carries the whole of `permute` where
PERM is not XSH_RR (41_output_permutation.md R141; 93_implementation_defined.md U6). It is evaluated in
Machine/Permute.lean, every value being W bits wide. With `ifEq` each function of the state is one of these
(Obligations.OptionalPermuteIsAnyFunction), so the field excludes no function. -/
inductive Formula where
  /-- the argument of `permute`, s -/
  | state
  /-- a constant -/
  | lit (n : Nat)
  /-- sum modulo 2^W -/
  | add (a b : Formula)
  /-- product modulo 2^W -/
  | mul (a b : Formula)
  /-- bitwise exclusive or -/
  | xor (a b : Formula)
  /-- logical right shift of `a` by `b` -/
  | shr (a b : Formula)
  /-- `trunc_n(a)` rotated right within its n bits by `r` -/
  | rotr (n : Nat) (a r : Formula)
  /-- `t` where `a` equals `b`, else `e` -/
  | ifEq (a b t e : Formula)
deriving DecidableEq, Repr

/-- The build-time parameters of one instance (00_scope.md section 3). Fixed for its life: no step writes one. -/
structure Config where
  /-- W, O and PERM (R4, R5, R6, R10) -/
  variant : Variant
  /-- MULT (R7) -/
  mult : BitVec variant.stateWidth
  /-- the constants of `permute` where PERM is XSH_RR (R134, U6); no other PERM reads them -/
  xshRr : XshRrConsts
  /-- the whole of `permute` where PERM is not XSH_RR (R141, U6); XSH_RR does not read it -/
  optionalPermute : Formula
  /-- OUT_TAP (R8) -/
  outTap : OutTap
  /-- FALLBACK_SEED (R9) -/
  fallbackSeed : BitVec variant.stateWidth
  /-- FALLBACK_STREAM (R9) -/
  fallbackStream : BitVec variant.stateWidth
  /-- DEFAULT_STREAM (R9) -/
  defaultStream : BitVec variant.stateWidth
deriving DecidableEq, Repr

/-- W of a configuration. -/
abbrev Config.w (c : Config) : Nat := c.variant.stateWidth

/-- O of a configuration. -/
abbrev Config.o (c : Config) : Nat := c.variant.outWidth

/-- RW = max(W, 2·O), the width of the response data bus (00_scope.md R10). -/
abbrev Config.rw (c : Config) : Nat := max c.w (2 * c.o)

end Sys2Proof
end

