-- ==== Sys2Proof/Syntax.lean ====
section
/-! DEFINITION. The commands, the command triple, assembler lines and pseudo-instructions (spec/30_encoding.md). -/

namespace Sys2Proof

/-- The eleven commands, one constructor per row of spec/opcode_table.json (30_encoding.md R74). A command carries no
operand: "There is no immediate field: the command word carries no data" (R73); operands are on the buses OPA, OPB. -/
inductive Instr where
  /-- INIT.X, 0x01 -/
  | initX
  /-- INIT.S, 0x11 -/
  | initS
  /-- INIT.D, 0x21 -/
  | initD
  /-- NEXT, 0x02 -/
  | next
  /-- NEXT2, 0x03 -/
  | next2
  /-- JUMP, 0x04 -/
  | jump
  /-- FILL, 0x05 -/
  | fill
  /-- PEEK, 0x06 -/
  | peek
  /-- RDSTATE, 0x07 -/
  | rdstate
  /-- RDINC, 0x08 -/
  | rdinc
  /-- RESTORE, 0x09 -/
  | restore
deriving DecidableEq, Repr

/-- Every command, in the order of the table of R74. -/
def Instr.all : List Instr :=
  [.initX, .initS, .initD, .next, .next2, .jump, .fill, .peek, .rdstate, .rdinc, .restore]

/-- Which operand buses a command reads (30_encoding.md R72). -/
inductive Format where
  | n
  | a
  | ab
deriving DecidableEq, Repr

/-- The format column of R72. -/
def Instr.format : Instr → Format
  | .initX => .ab
  | .initS => .a
  | .initD => .n
  | .next => .n
  | .next2 => .n
  | .jump => .a
  | .fill => .a
  | .peek => .n
  | .rdstate => .n
  | .rdinc => .n
  | .restore => .ab

/-- The format reads OPA. -/
def Format.readsOpa : Format → Bool
  | .n => false
  | .a => true
  | .ab => true

/-- The format reads OPB. -/
def Format.readsOpb : Format → Bool
  | .n => false
  | .a => false
  | .ab => true

/-- The mnemonic of R74. -/
def Instr.mnemonic : Instr → String
  | .initX => "INIT.X"
  | .initS => "INIT.S"
  | .initD => "INIT.D"
  | .next => "NEXT"
  | .next2 => "NEXT2"
  | .jump => "JUMP"
  | .fill => "FILL"
  | .peek => "PEEK"
  | .rdstate => "RDSTATE"
  | .rdinc => "RDINC"
  | .restore => "RESTORE"

/-- A command as it stands on the ports: the triple (CMD : 8, OPA : W, OPB : W) of 30_encoding.md R70. -/
structure Command (w : Nat) where
  cmd : CmdWord
  opa : BitVec w
  opb : BitVec w
deriving DecidableEq, Repr

/-- An assembler line `MNEMONIC [opa [, opb]]`: operands are unsigned integers (30_encoding.md R80); an operand the
command does not read is 0. Which lines are well formed at a width is in WellFormed.lean. -/
structure Line where
  instr : Instr
  opa : Nat
  opb : Nat
deriving DecidableEq, Repr

/-- The pseudo-instructions of 30_encoding.md R81. -/
inductive Pseudo where
  /-- `SEEDS v, s` -/
  | seeds (v s : Nat)
  /-- `SEED v` -/
  | seed (v : Nat)
  /-- `SEEDD` -/
  | seedd
  /-- `STEP` -/
  | step
  /-- `BACK c` -/
  | back (c : Nat)
  /-- `NEXT32` -/
  | next32
  /-- `NEXT64` -/
  | next64
deriving DecidableEq, Repr

end Sys2Proof
end

