-- ==== Sys2Proof/WellFormed.lean ====
section
/-! DEFINITION. Which terms of the syntax the hardware has an encoding for. A command itself (Instr) has no field, so
every Instr is well formed; the checks are on assembler lines and pseudo-instructions (30_encoding.md R80, R81). -/

namespace Sys2Proof

/-- A command word carries no data (30_encoding.md R73), so a command has nothing to check. -/
def Instr.wellFormed (_ : Instr) : Bool := true

/-- Operands are below 2^W, and an operand bus the format does not read is assembled as 0 (30_encoding.md R80). -/
def Line.wellFormed (w : Nat) (l : Line) : Bool :=
  decide (l.opa < 2 ^ w) && decide (l.opb < 2 ^ w)
    && (l.instr.format.readsOpa || l.opa == 0) && (l.instr.format.readsOpb || l.opb == 0)

/-- Operands are below 2^W; NEXT32 only when O = 32; NEXT64 only when O = 32 or O = 64, the two cases R81 gives it. -/
def Pseudo.wellFormed (v : Variant) : Pseudo → Bool
  | .seeds a s => decide (a < 2 ^ v.stateWidth) && decide (s < 2 ^ v.stateWidth)
  | .seed a => decide (a < 2 ^ v.stateWidth)
  | .seedd => true
  | .step => true
  | .back c => decide (c < 2 ^ v.stateWidth)
  | .next32 => v.outWidth == 32
  | .next64 => v.outWidth == 32 || v.outWidth == 64

end Sys2Proof
end

