-- ==== Sys2Proof/Decode.lean ====
section
/-! DEFINITION. Decoding a command word by its fields (30_encoding.md R71, R74 to R77), total on all 256 words, each
reserved word rejected by name; then the encoder, the assembler of lines and pseudo-instructions (R80, R81), and the
host's numbering of the table's bits. -/

namespace Sys2Proof

/-- Why a command word is reserved (30_encoding.md R76). The hardware reports no cause (60_exceptions.md R221), and the
checks are not ordered against each other (R223): where several hold, the name is that of the first below
(notes/assumptions/20.md). -/
inductive Reserved where
  /-- RSV ≠ 00 -/
  | rsvNonzero
  /-- OPC = 0x0 -/
  | opcodeZero
  /-- OPC in 0xA to 0xF -/
  | opcodeUnassigned
  /-- OPC = 0x1 and SRC = 11 -/
  | seedSourceThree
  /-- OPC in 0x2 to 0x9 and SRC ≠ 00 -/
  | sourceNonzero
deriving DecidableEq, Repr

/-- What a command word reads as. -/
inductive Decoded where
  | command (i : Instr)
  | reserved (r : Reserved)
deriving DecidableEq, Repr

/-- RSV, bits 7:6 (30_encoding.md R71). -/
def fieldRsv (c : CmdWord) : BitVec 2 := c.extractLsb' 6 2

/-- SRC, bits 5:4 (30_encoding.md R71). -/
def fieldSrc (c : CmdWord) : BitVec 2 := c.extractLsb' 4 2

/-- OPC, bits 3:0 (30_encoding.md R71). -/
def fieldOpc (c : CmdWord) : BitVec 4 := c.extractLsb' 0 4

/-- OPC = 0x1: SRC selects the seed multiplexer's position (30_encoding.md R75). -/
def decodeInit (src : BitVec 2) : Decoded :=
  match src.toNat with
  | 0 => .command .initX
  | 1 => .command .initS
  | 2 => .command .initD
  | _ => .reserved .seedSourceThree

/-- An opcode other than 0x1 requires SRC = 00 (30_encoding.md R71, R76). -/
def decodePlain (src : BitVec 2) (i : Instr) : Decoded :=
  if src = 0 then .command i else .reserved .sourceNonzero

/-- The opcode map (30_encoding.md R74), RSV being 00. -/
def decodeOpcode (opc : BitVec 4) (src : BitVec 2) : Decoded :=
  match opc.toNat with
  | 0 => .reserved .opcodeZero
  | 1 => decodeInit src
  | 2 => decodePlain src .next
  | 3 => decodePlain src .next2
  | 4 => decodePlain src .jump
  | 5 => decodePlain src .fill
  | 6 => decodePlain src .peek
  | 7 => decodePlain src .rdstate
  | 8 => decodePlain src .rdinc
  | 9 => decodePlain src .restore
  | _ => .reserved .opcodeUnassigned

/-- Decode is a total function from the 256 words to the eleven commands plus reserved (30_encoding.md R77). -/
def decodeWord (c : CmdWord) : Decoded :=
  if fieldRsv c = 0 then decodeOpcode (fieldOpc c) (fieldSrc c) else .reserved .rsvNonzero

/-- The command a word stands for; none where the word is reserved. -/
def decode (c : CmdWord) : Option Instr :=
  match decodeWord c with
  | .command i => some i
  | .reserved _ => none

/-- The SRC field of a command (30_encoding.md R74, R75). -/
def encodeSrc : Instr → BitVec 2
  | .initX => 0b00#2
  | .initS => 0b01#2
  | .initD => 0b10#2
  | .next => 0b00#2
  | .next2 => 0b00#2
  | .jump => 0b00#2
  | .fill => 0b00#2
  | .peek => 0b00#2
  | .rdstate => 0b00#2
  | .rdinc => 0b00#2
  | .restore => 0b00#2

/-- The OPC field of a command (30_encoding.md R74). -/
def encodeOpc : Instr → BitVec 4
  | .initX => 0x1#4
  | .initS => 0x1#4
  | .initD => 0x1#4
  | .next => 0x2#4
  | .next2 => 0x3#4
  | .jump => 0x4#4
  | .fill => 0x5#4
  | .peek => 0x6#4
  | .rdstate => 0x7#4
  | .rdinc => 0x8#4
  | .restore => 0x9#4

/-- The word of a command: RSV = 00, then SRC, then OPC (30_encoding.md R71). -/
def encode (i : Instr) : CmdWord := 0b00#2 ++ encodeSrc i ++ encodeOpc i

/-- The assembled form of a line: the triple (CMD, OPA, OPB) (30_encoding.md R80); none where an operand is not below
2^W or an unread operand is not 0. -/
def assemble (w : Nat) (l : Line) : Option (Command w) :=
  if l.wellFormed w then
    some { cmd := encode l.instr, opa := BitVec.ofNat w l.opa, opb := BitVec.ofNat w l.opb }
  else none

/-- The line a command triple is written as (30_encoding.md R80): an operand bus the command does not read is ignored
(R73) and written 0; none where the word is reserved. -/
def disassemble {w : Nat} (c : Command w) : Option Line :=
  match decode c.cmd with
  | none => none
  | some i =>
    some { instr := i
           opa := if i.format.readsOpa then c.opa.toNat else 0
           opb := if i.format.readsOpb then c.opb.toNat else 0 }

/-- The line of a command with no operand. -/
def lineOf (i : Instr) : Line := { instr := i, opa := 0, opb := 0 }

/-- The expansion of a pseudo-instruction (30_encoding.md R81); none where it is not well formed in the configuration
(notes/assumptions/13.md). -/
def expandPseudo (v : Variant) (p : Pseudo) : Option Line :=
  if p.wellFormed v then
    match p with
    | .seeds a s => some { instr := .initX, opa := a, opb := s }
    | .seed a => some { instr := .initS, opa := a, opb := 0 }
    | .seedd => some (lineOf .initD)
    | .step => some { instr := .jump, opa := 1, opb := 0 }
    | .back c => some { instr := .jump, opa := if c = 0 then 0 else 2 ^ v.stateWidth - c, opb := 0 }
    | .next32 => some (lineOf .next)
    | .next64 => some (if v.outWidth = 32 then lineOf .next2 else lineOf .next)
  else none

/-- What the decoder reads from an instruction whose bits are `w`, numbered as spec/opcode_table.json numbers them. A
command is one 8-bit word (30_encoding.md R70), so bits above it belong to no command (notes/assumptions/14.md). -/
def decodeTableWord (nbits w : Nat) : Option Instr :=
  if w % 2 ^ nbits < 2 ^ 8 then decode (BitVec.ofNat 8 (w % 2 ^ nbits)) else none

end Sys2Proof
end

