-- ==== Sys2Proof/Machine/Params.lean ====
section
/-! DEFINITION. The default values of the build-time parameters (00_scope.md R7 to R10; 41_output_permutation.md R134,
R138 to R140). Every value here is the spec's own choice or recalled by its writer (93_implementation_defined.md G1 to
G5); see notes/assumptions/2.md and 3.md. -/

namespace Sys2Proof.Machine

/-- The MULT of 00_scope.md R7 at each admitted state width. -/
def multValue (w : Nat) : Nat :=
  if w = 32 then 0x2C9277B5
  else if w = 64 then 0x5851F42D4C957F2D
  else 0x2360ED051FC65DA44385DF649FCCF645

/-- The constants of XSH_RR in each configuration: the table of 41_output_permutation.md R134. Where PERM is not XSH_RR
nothing reads them and they are 0. -/
def xshRrValue : Variant → XshRrConsts
  | .cfg64x32XshRr => { selBits := 5, xorShift := 18, downShift := 27 }
  | .cfg128x64XshRr => { selBits := 6, xorShift := 35, downShift := 58 }
  | .cfg32x16XshRr => { selBits := 4, xorShift := 10, downShift := 12 }
  | .cfg64x32XshRs => { selBits := 0, xorShift := 0, downShift := 0 }
  | .cfg64x64RxsMXs => { selBits := 0, xorShift := 0, downShift := 0 }
  | .cfg32x32RxsMXs => { selBits := 0, xorShift := 0, downShift := 0 }
  | .cfg128x64XslRr => { selBits := 0, xorShift := 0, downShift := 0 }

/-- `(a >> n) ^ a`. -/
def xorshiftFormula (a n : Formula) : Formula := .xor (.shr a n) a

/-- XSH_RS 64→32 before the truncation: `((s >> 22) ^ s) >> (22 + (s >> 61))` (R138). -/
def xshRsFormula : Formula :=
  .shr (xorshiftFormula .state (.lit 22)) (.add (.lit 22) (.shr .state (.lit 61)))

/-- RXS_M_XS: with `w = ((s >> ((s >> top) + plus)) ^ s) * factor`, `(w >> last) ^ w` (R139). -/
def rxsMXsFormula (top plus factor last : Nat) : Formula :=
  xorshiftFormula
    (.mul (xorshiftFormula .state (.add (.shr .state (.lit top)) (.lit plus))) (.lit factor))
    (.lit last)

/-- XSL_RR 128→64: `rotr_64(trunc_64((s >> 64) ^ s), s >> 122)` (R140). -/
def xslRrFormula : Formula := .rotr 64 (xorshiftFormula .state (.lit 64)) (.shr .state (.lit 122))

/-- The stated value of `optionalPermute` in each configuration (R138 to R141). Where PERM is XSH_RR nothing reads it and
it is the constant 0. -/
def optionalPermuteValue : Variant → Formula
  | .cfg64x32XshRr => .lit 0
  | .cfg128x64XshRr => .lit 0
  | .cfg32x16XshRr => .lit 0
  | .cfg64x32XshRs => xshRsFormula
  | .cfg64x64RxsMXs => rxsMXsFormula 59 5 12605985483714917081 43
  | .cfg32x32RxsMXs => rxsMXsFormula 28 4 277803737 22
  | .cfg128x64XslRr => xslRrFormula

/-- FALLBACK_SEED (00_scope.md R9). -/
def fallbackSeedValue : Nat := 42

/-- FALLBACK_STREAM (00_scope.md R9). -/
def fallbackStreamValue : Nat := 54

/-- DEFAULT_STREAM (00_scope.md R9). -/
def defaultStreamValue : Nat := 54

/-- A configuration with the spec's default parameters, for a row of 00_scope.md R10 and a tap. -/
def standardConfig (v : Variant) (tap : OutTap) : Config :=
  { variant := v
    mult := BitVec.ofNat v.stateWidth (multValue v.stateWidth)
    xshRr := xshRrValue v
    optionalPermute := optionalPermuteValue v
    outTap := tap
    fallbackSeed := BitVec.ofNat v.stateWidth fallbackSeedValue
    fallbackStream := BitVec.ofNat v.stateWidth fallbackStreamValue
    defaultStream := BitVec.ofNat v.stateWidth defaultStreamValue }

/-- The default configuration: CFG-64-32-XSHRR, OUT_TAP = NEW (00_scope.md R8, R10). -/
def defaultConfig : Config := standardConfig .cfg64x32XshRr .new

end Sys2Proof.Machine
end

