-- ==== Sys2Proof/Machine/Engine.lean ====
section
/-! DEFINITION. The state engine as functions of W-bit values (spec/40_state_engine.md) and the seeding function
(spec/43_seed_construction.md R180): the LCG step, its repetition and closed form, the doubling iterator, the wide
arithmetic, and the storage of INC. -/

namespace Sys2Proof.Machine

/-- The LCG step, `(s * MULT + c) mod 2^W` (40_state_engine.md R100, R101). -/
def advance {w : Nat} (mult s c : BitVec w) : BitVec w := s * mult + c

/-- `advance(·, c)` applied `k` times: the definition of `advance_by` (40_state_engine.md R105). -/
def advanceBy {w : Nat} (mult c : BitVec w) : Nat → BitVec w → BitVec w
  | 0, s => s
  | k + 1, s => advanceBy mult c k (advance mult s c)

/-- `A(k) = MULT^k mod 2^W` (40_state_engine.md R105). -/
def multPower {w : Nat} (mult : BitVec w) : Nat → BitVec w
  | 0 => 1
  | k + 1 => multPower mult k * mult

/-- `G(k) = (MULT^0 + … + MULT^(k−1)) mod 2^W` (40_state_engine.md R105, R106). -/
def geomSum {w : Nat} (mult : BitVec w) : Nat → BitVec w
  | 0 => 0
  | k + 1 => geomSum mult k + multPower mult k

/-- The five working registers of the jump-ahead iterator (10_state.md R34, 40_state_engine.md R107). -/
structure Iterator (w : Nat) where
  accMult : BitVec w
  accPlus : BitVec w
  curMult : BitVec w
  curPlus : BitVec w
  delta : BitVec w
deriving DecidableEq, Repr

/-- The loads before the loop (40_state_engine.md R107). -/
def iteratorLoad {w : Nat} (mult c k : BitVec w) : Iterator w :=
  { accMult := 1, accPlus := 0, curMult := mult, curPlus := c, delta := k }

/-- One pass of the loop: the `if` arm reads the old CUR registers, and CUR_PLUS is updated with the old CUR_MULT
(40_state_engine.md R107). -/
def iteratorPass {w : Nat} (r : Iterator w) : Iterator w :=
  { accMult := if r.delta.getLsbD 0 then r.accMult * r.curMult else r.accMult
    accPlus := if r.delta.getLsbD 0 then r.accPlus * r.curMult + r.curPlus else r.accPlus
    curMult := r.curMult * r.curMult
    curPlus := (r.curMult + 1) * r.curPlus
    delta := r.delta >>> 1 }

/-- `while DELTA != 0`, for at most `fuel` passes; W passes always suffice (40_state_engine.md R107, R108). -/
def iteratorLoop {w : Nat} : Nat → Iterator w → Iterator w
  | 0, r => r
  | fuel + 1, r => if r.delta = 0 then r else iteratorLoop fuel (iteratorPass r)

/-- The iterator registers at the end of a jump by `k` on the stream `c` (40_state_engine.md R107). -/
def iteratorRun {w : Nat} (mult c k : BitVec w) : Iterator w := iteratorLoop w (iteratorLoad mult c k)

/-- `result = ACC_MULT * s + ACC_PLUS` (40_state_engine.md R107). -/
def iteratorResult {w : Nat} (r : Iterator w) (s : BitVec w) : BitVec w := r.accMult * s + r.accPlus

/-- `advance` built from two halves with explicit carry (40_state_engine.md R102): operands are given as high and low
halves of `h` bits. -/
def advanceHalves {h : Nat} (mh ml sh sl ch cl : BitVec h) : BitVec (h + h) :=
  let p : BitVec (h + h) := sl.setWidth (h + h) * ml.setWidth (h + h)
  let lo : BitVec (h + 1) := (p.extractLsb' 0 h).setWidth (h + 1) + cl.setWidth (h + 1)
  let carry : BitVec h := (lo.extractLsb' h 1).setWidth h
  let high : BitVec h := p.extractLsb' h h + sl * mh + sh * ml + ch + carry
  high ++ lo.extractLsb' 0 h

/-- The increment a stream selector gives: `(sel << 1) | 1`, the top bit of `sel` shifted out
(43_seed_construction.md R180, R181). -/
def incOfSelector {w : Nat} (sel : BitVec w) : BitVec w := (sel <<< 1) ||| 1#w

/-- `init(seed, sel) = (state0, inc)` (43_seed_construction.md R180). -/
def initPair {w : Nat} (mult seed sel : BitVec w) : BitVec w × BitVec w :=
  (advance mult (seed + incOfSelector sel) (incOfSelector sel), incOfSelector sel)

/-- What INC stores of a value written to it: bits W−1..1; a write to bit 0 is ignored (10_state.md R21). -/
def incStore {w : Nat} (v : BitVec w) : BitVec (w - 1) := (v >>> 1).setWidth (w - 1)

/-- What INC reads as: the stored bits above a bit 0 hardwired to 1 (10_state.md R21). -/
def incRead {w : Nat} (hi : BitVec (w - 1)) : BitVec w := (hi.setWidth w <<< 1) ||| 1#w

end Sys2Proof.Machine
end

