-- ==== Sys2Proof/Machine/State.lean ====
section
/-! DEFINITION. The state of one instance (spec/10_state.md), its ports as one transaction sees them, what the host is
about to do and has got so far, and the state right after reset. -/

namespace Sys2Proof.Machine

/-- The entropy port during one transaction (10_state.md R31, R36; 43_seed_construction.md R188): inputs under no law. -/
structure EntropyPort (w : Nat) where
  /-- ENT_AVAIL, the strap -/
  avail : Bool
  /-- ENT_SEED -/
  seed : BitVec w
  /-- ENT_STREAM -/
  stream : BitVec w
deriving DecidableEq, Repr

/-- The inputs of one transaction (10_state.md R36): the command triple and the entropy port. -/
structure Transaction (w : Nat) extends Command w where
  ent : EntropyPort w
deriving DecidableEq, Repr

/-- The response to a command (30_encoding.md R79). -/
structure Response (rw : Nat) where
  /-- RSP_ERR -/
  err : Bool
  /-- RSP_DATA -/
  data : BitVec rw
deriving DecidableEq, Repr

/-- What the host does next (70_reset_and_hazards.md R257, R258). -/
inductive HostEvent (w : Nat) where
  /-- a command is presented and accepted -/
  | command (t : Transaction w)
  /-- RST is asserted between commands (R250) -/
  | rst
  /-- a command is accepted and RST is asserted while it executes; the host has taken `taken` bytes of a FILL by then,
  or all of them if it has fewer (R253; notes/assumptions/9.md) -/
  | rstDuring (t : Transaction w) (taken : Nat)
deriving DecidableEq, Repr

/-- What the host has got from one transaction: the response (none if the command was abandoned by RST, R253) and the
bytes, in order (R257). -/
structure Exchange (rw : Nat) where
  rsp : Option (Response rw)
  bytes : List Byte
deriving DecidableEq, Repr

/-- One instance and its host. The block's own state is `state`, `incHi` and `iter` (10_state.md R20, R21, R34);
`cfg` is the build's; `port` is driven from outside; `rsp` and `bytes` are the outputs of the latest transition;
`script`, `record` and `illegalSeen` are the host's side and the model's mark (INVENTORY.md, State). -/
structure State where
  /-- the build-time parameters -/
  cfg : Config
  /-- STATE (R20) -/
  state : BitVec cfg.w
  /-- INC[W−1:1]; bit 0 has no storage (R21) -/
  incHi : BitVec (cfg.w - 1)
  /-- the hidden iterator registers (R34) -/
  iter : Iterator cfg.w
  /-- the input ports during the latest transaction (R36, R261) -/
  port : Transaction cfg.w
  /-- the response port: none is RSP_VALID = 0 (R36) -/
  rsp : Option (Response cfg.rw)
  /-- the bytes delivered on the byte port in the latest transition, in order (R36, R59) -/
  bytes : List Byte
  /-- what the host does next, oldest first (R28) -/
  script : List (HostEvent cfg.w)
  /-- what the host has got so far, oldest first (R257) -/
  record : List (Exchange cfg.rw)
  /-- the run holds an IllegalCommand; never cleared (93_implementation_defined.md U2) -/
  illegalSeen : Bool
deriving DecidableEq, Repr

/-- Reasons the machine stops with a fault. There is none: no legal command can fail (60_exceptions.md R220) and the one
exception, IllegalCommand, is a response after which the block goes on (R221, R222). -/
inductive Fault
deriving DecidableEq, Repr

/-- Reasons a step is refused. -/
inductive Refusal where
  /-- an instruction with no meaning yet, raised by an arm of `exec`; safe. No arm raises it. -/
  | notModelled (mnemonic : String)
deriving DecidableEq, Repr

/-- The outcome of a meaning or a step. -/
abbrev Result := Host.Outcome State Fault Refusal

/-- The input ports with nothing presented (inputs, no reset value in the spec: notes/assumptions/7.md). -/
def Transaction.undriven (w : Nat) : Transaction w :=
  { cmd := 0, opa := 0, opb := 0, ent := { avail := false, seed := 0, stream := 0 } }

/-- The iterator registers after reset, for which the spec gives no value (10_state.md R39; notes/assumptions/6.md). -/
def Iterator.afterReset (w : Nat) : Iterator w :=
  { accMult := 0, accPlus := 0, curMult := 0, curPlus := 0, delta := 0 }

/-- An instance of a configuration right after reset: `(STATE, INC) = init(FALLBACK_SEED, FALLBACK_STREAM)`, no response
and no byte pending, the host having presented nothing (10_state.md R38, R39; 70_reset_and_hazards.md R250, R251). -/
def State.resetOf (cfg : Config) : State :=
  { cfg := cfg
    state := (initPair cfg.mult cfg.fallbackSeed cfg.fallbackStream).1
    incHi := incStore (initPair cfg.mult cfg.fallbackSeed cfg.fallbackStream).2
    iter := Iterator.afterReset cfg.w
    port := Transaction.undriven cfg.w
    rsp := none
    bytes := []
    script := []
    record := []
    illegalSeen := false }

/-- The machine right after reset, in the default configuration (00_scope.md R10). -/
def State.reset : State := State.resetOf defaultConfig

end Sys2Proof.Machine
end

