-- ==== Sys2Proof/Machine/Flags.lean ====
section
/-! DEFINITION. The block has no flag, condition code or predicate register (10_state.md R29). The one status bit is the
wire RSP_ERR of a response: 1 for a reserved word, 0 for every legal command (30_encoding.md R79). -/

namespace Sys2Proof.Machine

/-- The response of a legal command with result `v`: RSP_ERR = 0, RSP_DATA = zext_RW(v) (00_scope.md R13,
30_encoding.md R79). -/
def okResponse (rw : Nat) {n : Nat} (v : BitVec n) : Response rw := { err := false, data := v.setWidth rw }

/-- The response of a reserved word: RSP_ERR = 1, RSP_DATA = 0 (60_exceptions.md R221). -/
def illegalResponse (rw : Nat) : Response rw := { err := true, data := 0 }

end Sys2Proof.Machine
end

