-- ==== Sys2Proof/Machine/Operands.lean ====
section
/-! DEFINITION. The operand buses and the stream-seed initialisation multiplexer (30_encoding.md R73, R75;
43_seed_construction.md R184). There is no other operand form: no immediate, no register number, no address
(30_encoding.md R73, 20_memory.md R50, R64). -/

namespace Sys2Proof.Machine

/-- OPA of the command being executed, sampled at acceptance (00_scope.md R13, 70_reset_and_hazards.md R261). -/
def opa (s : State) : BitVec s.cfg.w := s.port.opa

/-- OPB of the command being executed. -/
def opb (s : State) : BitVec s.cfg.w := s.port.opb

/-- The positions of the seed multiplexer (43_seed_construction.md R184). -/
inductive SeedSource where
  /-- X: explicit seed and selector -/
  | explicit
  /-- S: explicit seed, default stream -/
  | seedOnly
  /-- D: entropy port or fallback, by the strap ENT_AVAIL -/
  | defaulted
  /-- the reset position -/
  | reset
deriving DecidableEq, Repr

/-- The (seed, sel) the multiplexer feeds to `init` (43_seed_construction.md R184). The entropy port is read in position
D with ENT_AVAIL = 1 and nowhere else (R188). -/
def seedMux (cfg : Config) (t : Transaction cfg.w) : SeedSource → BitVec cfg.w × BitVec cfg.w
  | .explicit => (t.opa, t.opb)
  | .seedOnly => (t.opa, cfg.defaultStream)
  | .defaulted => if t.ent.avail then (t.ent.seed, t.ent.stream) else (cfg.fallbackSeed, cfg.fallbackStream)
  | .reset => (cfg.fallbackSeed, cfg.fallbackStream)

end Sys2Proof.Machine
end

