-- ==== Sys2Proof/Machine/Permute.lean ====
section
/-! DEFINITION. The output permutation pipeline (spec/41_output_permutation.md): XSH_RR as a function of the
state with its constants as parameters, the evaluation of the function a configuration carries for every other PERM, and
the selection by the configuration. -/

namespace Sys2Proof.Machine

/-- The value of the top `n` bits of a state, the data-dependent rotate or shift amount. -/
def topBits {w : Nat} (n : Nat) (s : BitVec w) : Nat := (s >>> (w - n)).toNat

/-- The first xorshift: high bits folded down, `(s >> n) ^ s`. -/
def foldDown {w : Nat} (n : Nat) (s : BitVec w) : BitVec w := (s >>> n) ^^^ s

/-- XSH_RR: xorshift, take O bits from DS up, rotate right within O bits by the top B bits
(41_output_permutation.md R134; truncation before the rotate: 90_conflicts.md C9). -/
def permuteXshRr {w : Nat} (k : XshRrConsts) (o : Nat) (s : BitVec w) : BitVec o :=
  ((foldDown k.xorShift s >>> k.downShift).setWidth o).rotateRight (topBits k.selBits s)

/-- The W-bit value of a formula for the state `s`. Sums and products are modulo 2^W; shifts are logical. -/
def evalFormula {w : Nat} (s : BitVec w) : Formula → BitVec w
  | .state => s
  | .lit n => BitVec.ofNat w n
  | .add a b => evalFormula s a + evalFormula s b
  | .mul a b => evalFormula s a * evalFormula s b
  | .xor a b => evalFormula s a ^^^ evalFormula s b
  | .shr a b => evalFormula s a >>> (evalFormula s b).toNat
  | .rotr n a r => (((evalFormula s a).setWidth n).rotateRight (evalFormula s r).toNat).setWidth w
  | .ifEq a b t e => if evalFormula s a = evalFormula s b then evalFormula s t else evalFormula s e

/-- `permute` where PERM is not XSH_RR: the function the configuration carries, truncated to O bits (R141). -/
def permuteFormula {w : Nat} (f : Formula) (o : Nat) (s : BitVec w) : BitVec o := (evalFormula s f).setWidth o

/-- `permute(s)`: a pure function of the state, selected by the configuration alone (R130, R131); for XSH_RR by its
constants, for every other PERM the function the configuration carries (R141). -/
def permute (cfg : Config) (s : BitVec cfg.w) : BitVec cfg.o :=
  match cfg.variant.perm with
  | .xshRr => permuteXshRr cfg.xshRr cfg.o s
  | .xshRs => permuteFormula cfg.optionalPermute cfg.o s
  | .rxsMXs => permuteFormula cfg.optionalPermute cfg.o s
  | .xslRr => permuteFormula cfg.optionalPermute cfg.o s

end Sys2Proof.Machine
end

