-- ==== Sys2Proof/Machine/Ops.lean ====
section
/-! DEFINITION. The named operations every meaning and the step are written with: register access, the response and byte
ports, `init` and `next_word` (00_scope.md R13), taking IllegalCommand, RST, and the edges of a transaction. -/

namespace Sys2Proof.Machine

/-! Registers -/

/-- INC as a W-bit value; bit 0 reads 1 (10_state.md R21). -/
def State.inc (s : State) : BitVec s.cfg.w := incRead s.incHi

/-- `STATE <- v` (10_state.md R20). -/
def State.setState (s : State) (v : BitVec s.cfg.w) : State := { s with state := v }

/-- `INC <- v`; the write to bit 0 is ignored (10_state.md R21). -/
def State.setInc (s : State) (v : BitVec s.cfg.w) : State := { s with incHi := incStore v }

/-- Both registers loaded at once, by the INITs, reset and RESTORE. -/
def State.load (s : State) (st c : BitVec s.cfg.w) : State := { s with state := st, incHi := incStore c }

/-- The iterator registers are overwritten by a JUMP (40_state_engine.md R110). -/
def State.setIter (s : State) (it : Iterator s.cfg.w) : State := { s with iter := it }

/-! Response and byte ports -/

/-- `respond(v)`: completes the command with RSP_ERR = 0 and the result zero-extended (00_scope.md R13). -/
def State.respond (s : State) {n : Nat} (v : BitVec n) : State := { s with rsp := some (okResponse s.cfg.rw v) }

/-- `respond()`, which is `respond(0)` (00_scope.md R13). -/
def State.respondNothing (s : State) : State := s.respond (0 : BitVec 1)

/-- `emit_byte` for each byte of a list, in order (00_scope.md R13). -/
def State.emitBytes (s : State) (bs : List Byte) : State := { s with bytes := s.bytes ++ bs }

/-! Producing words -/

/-- `next_word()`: the word and the new STATE, from STATE and INC (42_generator_facade.md R160); OUT_TAP chooses the
state that is permuted. -/
def nextWord (cfg : Config) (c st : BitVec cfg.w) : BitVec cfg.o × BitVec cfg.w :=
  match cfg.outTap with
  | .new => (permute cfg (advance cfg.mult st c), advance cfg.mult st c)
  | .old => (permute cfg st, advance cfg.mult st c)

/-- BPW, bytes per output word (42_generator_facade.md R163). -/
def bytesPerWord (cfg : Config) : Nat := cfg.o / 8

/-- The bytes of a word, least significant first: `w[7:0], w[15:8], …` (20_memory.md R53). -/
def wordBytes {o : Nat} (w : BitVec o) : List Byte := (List.range (o / 8)).map fun j => w.extractLsb' (8 * j) 8

/-- `repeat q times: w = next_word(); emit its bytes`: the bytes and the new STATE (42_generator_facade.md R163). -/
def fillWords (cfg : Config) (c : BitVec cfg.w) : Nat → BitVec cfg.w → List Byte × BitVec cfg.w
  | 0, st => ([], st)
  | q + 1, st =>
    let rest := fillWords cfg c q (nextWord cfg c st).2
    (wordBytes (nextWord cfg c st).1 ++ rest.1, rest.2)

/-- All of a FILL of `n` bytes: whole words, then the low `n mod BPW` bytes of one more word if that is not 0
(42_generator_facade.md R163, R164). -/
def fillRun (cfg : Config) (c : BitVec cfg.w) (n : Nat) (st : BitVec cfg.w) : List Byte × BitVec cfg.w :=
  let whole := fillWords cfg c (n / bytesPerWord cfg) st
  if n % bytesPerWord cfg = 0 then whole
  else
    (whole.1 ++ (wordBytes (nextWord cfg c whole.2).1).take (n % bytesPerWord cfg), (nextWord cfg c whole.2).2)

/-! Seeding -/

/-- Seed from a position of the multiplexer: `(s0, c) = init(seed, sel); INC <- c; STATE <- s0`
(43_seed_construction.md R184 to R187). -/
def State.seedFrom (s : State) (src : SeedSource) : State :=
  let m := seedMux s.cfg s.port src
  s.load (initPair s.cfg.mult m.1 m.2).1 (initPair s.cfg.mult m.1 m.2).2

/-! Exception, reset, and the edges of a transaction -/

/-- Taking IllegalCommand, complete: RSP_ERR = 1, RSP_DATA = 0, nothing else of the block changes, and there is no entry
to return from (60_exceptions.md R221, R222, R224). The model marks the run (notes/assumptions/4.md). -/
def State.raiseIllegal (s : State) : State :=
  { s with rsp := some (illegalResponse s.cfg.rw), illegalSeen := true }

/-- The reset action: the registers take their reset values, no response and no byte is pending
(70_reset_and_hazards.md R250, R251). What the host holds and the model's mark stay (notes/assumptions/17.md). -/
def State.resetAction (s : State) : State :=
  { s.seedFrom .reset with iter := Iterator.afterReset s.cfg.w, rsp := none, bytes := [] }

/-- The host's next event is taken from its list; the outputs of the transition before are over (10_state.md R23). -/
def State.takeEvent (s : State) : State := { s with script := s.script.tail, rsp := none, bytes := [] }

/-- A command is accepted: its inputs are sampled once (70_reset_and_hazards.md R261). -/
def State.accept (s : State) (t : Transaction s.cfg.w) : State := { s.takeEvent with port := t }

/-- Nothing is presented: the block is idle and holds STATE and INC (60_exceptions.md R233). -/
def State.idle (s : State) : State := { s with rsp := none, bytes := [] }

/-- The host notes what the transaction gave (70_reset_and_hazards.md R257). -/
def State.note (s : State) : State := { s with record := s.record ++ [{ rsp := s.rsp, bytes := s.bytes }] }

/-- The bytes of a command that the host can have taken before its response: those of a FILL, none of any other
(10_state.md R24). -/
def bytesOffered (s : State) : List Byte :=
  match decode s.port.cmd with
  | some .fill => (fillRun s.cfg s.inc (opa s).toNat s.state).1
  | some _ => []
  | none => []

/-- RST while an accepted command executes: no response, the bytes already taken stay taken, and the registers take
their reset values (70_reset_and_hazards.md R253). A reserved word marks the run though its response never came
(R257; notes/assumptions/4.md). -/
def State.abandon (s : State) (taken : Nat) : State :=
  { s.resetAction with
    bytes := (bytesOffered s).take taken
    illegalSeen := s.illegalSeen || (decode s.port.cmd).isNone }

end Sys2Proof.Machine
end

