-- ==== Sys2Proof/Machine/Access.lean ====
section
/-! DEFINITION. PEEK (spec/41_output_permutation.md R142) and RDSTATE, RDINC, RESTORE (spec/44_state_access.md). -/

namespace Sys2Proof.Machine

/-- PEEK: `respond(permute(STATE))` (R142). -/
def execPeek (s : State) : Result := .next (s.respond (permute s.cfg s.state))

/-- RDSTATE: `respond(STATE)` (R200). -/
def execRdstate (s : State) : Result := .next (s.respond s.state)

/-- RDINC: `respond(INC)` (R201). -/
def execRdinc (s : State) : Result := .next (s.respond s.inc)

/-- RESTORE: `STATE <- OPA ; INC <- OPB | 1 ; respond()` (R202); INC forces its own bit 0. -/
def execRestore (s : State) : Result := .next (s.load (opa s) (opb s)).respondNothing

end Sys2Proof.Machine
end

