-- ==== Sys2Proof/Machine/Generate.lean ====
section
/-! DEFINITION. NEXT, NEXT2, FILL (spec/42_generator_facade.md). -/

namespace Sys2Proof.Machine

/-- NEXT: `w = next_word() ; respond(w)` (R160). -/
def execNext (s : State) : Result :=
  let w := nextWord s.cfg s.inc s.state
  .next ((s.setState w.2).respond w.1)

/-- NEXT2: `w1 = next_word() ; w2 = next_word() ; respond({w2, w1})` (R162). -/
def execNext2 (s : State) : Result :=
  let w1 := nextWord s.cfg s.inc s.state
  let w2 := nextWord s.cfg s.inc w1.2
  .next ((s.setState w2.2).respond (w2.1 ++ w1.1))

/-- FILL: emit OPA bytes, then respond (R163, R164). -/
def execFill (s : State) : Result :=
  let f := fillRun s.cfg s.inc (opa s).toNat s.state
  .next ((s.setState f.2).emitBytes f.1).respondNothing

end Sys2Proof.Machine
end

