-- ==== Sys2Proof/Machine/Jump.lean ====
section
/-! DEFINITION. JUMP (spec/40_state_engine.md R110), by the doubling iterator of R107. -/

namespace Sys2Proof.Machine

/-- JUMP: `STATE <- advance_by(STATE, INC, OPA) ; respond()`; the iterator registers are overwritten (R107, R110). -/
def execJump (s : State) : Result :=
  let it := iteratorRun s.cfg.mult s.inc (opa s)
  .next ((s.setState (iteratorResult it s.state)).setIter it).respondNothing

end Sys2Proof.Machine
end

