-- ==== Sys2Proof/Machine/Seed.lean ====
section
/-! DEFINITION. INIT.X, INIT.S, INIT.D (spec/43_seed_construction.md R185 to R187). -/

namespace Sys2Proof.Machine

/-- INIT.X: `(s0, c) = init(OPA, OPB) ; INC <- c ; STATE <- s0 ; respond()` (R185). -/
def execInitX (s : State) : Result := .next (s.seedFrom .explicit).respondNothing

/-- INIT.S: `(s0, c) = init(OPA, DEFAULT_STREAM) ; …` (R186). -/
def execInitS (s : State) : Result := .next (s.seedFrom .seedOnly).respondNothing

/-- INIT.D: seed and selector from the entropy port if ENT_AVAIL = 1, else the fallback constants (R187). -/
def execInitD (s : State) : Result := .next (s.seedFrom .defaulted).respondNothing

end Sys2Proof.Machine
end

