-- ==== Sys2Proof/Machine/Dispatch.lean ====
section
/-! DEFINITION. One arm per command (30_encoding.md R74). -/

namespace Sys2Proof.Machine

def exec (i : Instr) (s : State) : Host.Outcome State Fault Refusal :=
  match i with
  | .initX => Sys2Proof.Machine.execInitX s
  | .initS => Sys2Proof.Machine.execInitS s
  | .initD => Sys2Proof.Machine.execInitD s
  | .next => Sys2Proof.Machine.execNext s
  | .next2 => Sys2Proof.Machine.execNext2 s
  | .jump => Sys2Proof.Machine.execJump s
  | .fill => Sys2Proof.Machine.execFill s
  | .peek => Sys2Proof.Machine.execPeek s
  | .rdstate => Sys2Proof.Machine.execRdstate s
  | .rdinc => Sys2Proof.Machine.execRdinc s
  | .restore => Sys2Proof.Machine.execRestore s

end Sys2Proof.Machine
end

