-- ==== Sys2Proof/Machine/Run.lean ====
section
/-! DEFINITION. One host event run to its end (00_scope.md R14, 20_memory.md R55, R58), and how a command word comes to
be presented. Machine/Step.lean only calls what stands here. -/

namespace Sys2Proof.Machine

/-- The host notes what an executed command gave. -/
def noteResult : Result → Result
  | .next t => .next t.note
  | .fault r => .fault r
  | .refused r => .refused r

/-- Run the command that has been accepted: a legal word is executed, a reserved one raises IllegalCommand
(30_encoding.md R76); then the host notes what it got. -/
def runAccepted (s : State) : Result :=
  match decode s.port.cmd with
  | some i => noteResult (exec i s)
  | none => .next s.raiseIllegal.note

/-- One event of the host, its first (70_reset_and_hazards.md R258). -/
def runEvent (s : State) : HostEvent s.cfg.w → Result
  | .command t => runAccepted (s.accept t)
  | .rst => .next s.takeEvent.resetAction
  | .rstDuring t taken => .next ((s.accept t).abandon taken).note

/-- The bits `w` of a table row, `nbits` of them, as a command word; every bit above is 0. -/
def tableCmdWord (nbits w : Nat) : CmdWord := BitVec.ofNat 8 (w % 2 ^ nbits)

/-- The transaction that presents a table row's word: its operand buses 0, the entropy port as it stands
(notes/assumptions/8.md). -/
def tableTransaction (s : State) (nbits w : Nat) : Transaction s.cfg.w :=
  { cmd := tableCmdWord nbits w, opa := 0, opb := 0, ent := s.port.ent }

end Sys2Proof.Machine
end

