-- ==== Sys2Proof/Machine/Step.lean ====
section
/-! DEFINITION. One step: the host's next event, or idling when it presents nothing. -/

namespace Sys2Proof.Machine

/-- One step. With nothing presented the block idles and holds its registers (60_exceptions.md R233). -/
def step (s : State) : Host.Outcome State Fault Refusal :=
  match s.script with
  | [] => .next s.idle
  | e :: _ => runEvent s e

/-- `s` with that command presented next: the block stores no program (10_state.md R28), so the host presents the word
(notes/assumptions/8.md). -/
def State.withFetchWord (s : State) (nbits w : Nat) : State :=
  { s with script := .command (tableTransaction s nbits w) :: s.script }

end Sys2Proof.Machine
end

