-- ==== Sys2Proof/Machine/Instances.lean ====
section
/-! DEFINITION. Several instances (60_exceptions.md R231): each a State of its own, sharing nothing, stepped one at a
time in an order given from outside (20_memory.md R63). -/

namespace Sys2Proof.Machine

/-- Any number of instances. -/
abbrev Instances := List State

/-- One step of instance `n`; where there is no such instance nothing happens. -/
def stepInstance (n : Nat) (b : Instances) : Host.Outcome Instances Fault Refusal :=
  match b[n]? with
  | none => .next b
  | some s =>
    match step s with
    | .next t => .next (b.set n t)
    | .fault r => .fault r
    | .refused r => .refused r

/-- Steps of the instances named by a schedule, in its order. -/
def runSchedule : List Nat → Instances → Host.Outcome Instances Fault Refusal
  | [], b => .next b
  | n :: rest, b =>
    match stepInstance n b with
    | .next b' => runSchedule rest b'
    | .fault r => .fault r
    | .refused r => .refused r

end Sys2Proof.Machine
end

