-- ==== Sys2Proof/Safety.lean ====
section
/-! DEFINITION. The words claims are stated in: runs and their results, the conservative reading of IllegalCommand, when
two states hold the same generator, and the invariant every step keeps. -/

namespace Sys2Proof.Machine

/-! Runs -/

/-- `s` with other values on the operand buses. -/
def State.withOperands (s : State) (a b : BitVec s.cfg.w) : State := { s with port := { s.port with opa := a, opb := b } }

/-- A command executed on the operands of an assembler line (30_encoding.md R80). -/
def execLine (l : Line) (s : State) : Result :=
  exec l.instr (s.withOperands (BitVec.ofNat s.cfg.w l.opa) (BitVec.ofNat s.cfg.w l.opb))

/-- Lines executed one after another. -/
def execLines : List Line → State → Result
  | [], s => .next s
  | l :: rest, s =>
    match execLine l s with
    | .next t => execLines rest t
    | .fault r => .fault r
    | .refused r => .refused r

/-- `k` steps of the machine. -/
def runSteps : Nat → State → Result
  | 0, s => .next s
  | k + 1, s =>
    match step s with
    | .next t => runSteps k t
    | .fault r => .fault r
    | .refused r => .refused r

/-- STATE, INC, the response (RSP_ERR, RSP_DATA) and the bytes of an outcome, as numbers; none where it is no next state. -/
def observe : Result → Option (Nat × Nat × Option (Bool × Nat) × List Nat)
  | .next t => some (t.state.toNat, t.inc.toNat, t.rsp.map fun r => (r.err, r.data.toNat), t.bytes.map BitVec.toNat)
  | .fault _ => none
  | .refused _ => none

/-- The responses the host has got, in order (70_reset_and_hazards.md R257). -/
def State.responses (s : State) : List (Response s.cfg.rw) := s.record.filterMap Exchange.rsp

/-- The bytes the host has got, in order (70_reset_and_hazards.md R257). -/
def State.stream (s : State) : List Byte := s.record.flatMap Exchange.bytes

/-- The host's list has run out: the end of a run (70_reset_and_hazards.md R257). -/
def State.ended (s : State) : Prop := s.script = []

/-- The run so far holds no IllegalCommand: the conservative reading of 93_implementation_defined.md U2. -/
def State.legalSoFar (s : State) : Prop := s.illegalSeen = false

/-! Changing the inputs of a state -/

/-- `s` with other values on the entropy port. -/
def State.withEntropy (s : State) (e : EntropyPort s.cfg.w) : State := { s with port := { s.port with ent := e } }

/-- The same instance built with the given OUT_TAP. -/
def State.withTap (s : State) (tap : OutTap) : State := { s with cfg := { s.cfg with outTap := tap } }

/-! Two states with the same generator -/

/-- An instance of the same configuration with the same host script, all other fields given. -/
def State.another (s : State) (st : BitVec s.cfg.w) (hi : BitVec (s.cfg.w - 1)) (it : Iterator s.cfg.w)
    (p : Transaction s.cfg.w) (rsp : Option (Response s.cfg.rw)) (bytes : List Byte)
    (rec : List (Exchange s.cfg.rw)) (mark : Bool) : State :=
  { s with state := st, incHi := hi, iter := it, port := p, rsp := rsp, bytes := bytes, record := rec,
           illegalSeen := mark }

/-- Equal configuration, STATE, INC and host script; the hidden registers, the stale ports and what the host noted may
differ. -/
def SameBlock (s t : State) : Prop :=
  ∃ it p rsp bytes rec mark, t = s.another s.state s.incHi it p rsp bytes rec mark

/-- As `SameBlock`, and the latest transition gave the same response and the same bytes. -/
def SameBlockAndOutputs (s t : State) : Prop :=
  ∃ it p rec mark, t = s.another s.state s.incHi it p s.rsp s.bytes rec mark

/-! The invariant -/

/-- An exchange with RSP_ERR = 1 carries no data and no byte (60_exceptions.md R221). -/
def Exchange.consistent {rw : Nat} (e : Exchange rw) : Prop :=
  ∀ r, e.rsp = some r → r.err = true → r.data = 0 ∧ e.bytes = []

/-- The exchange reports IllegalCommand. -/
def Exchange.reportsIllegal {rw : Nat} (e : Exchange rw) : Bool :=
  match e.rsp with
  | some r => r.err
  | none => false

/-- What the host has noted is consistent, and a run with an IllegalCommand in it is marked. -/
def State.Inv (s : State) : Prop :=
  (∀ e ∈ s.record, e.consistent) ∧ (s.record.any Exchange.reportsIllegal = true → s.illegalSeen = true)

end Sys2Proof.Machine
end

