-- ==== Sys2Proof/Certificates/Slice0/Obligations.lean ====
section
/-! DEFINITION. The statements for the provers, each from the numbered rules of spec/. -/

open Sys2Proof Sys2Proof.Machine

/-! ## Encoding -/

/-- R74: the word of each command, for all 256 words, and each command's format; the same words as the opcode table's bits
decode to the same commands. -/
def Obligations.CommandMapIsTheOpcodeTable : Prop :=
  (∀ c : CmdWord,
    (decode c = some .initX ↔ c = 0x01#8) ∧ (decode c = some .initS ↔ c = 0x11#8) ∧
    (decode c = some .initD ↔ c = 0x21#8) ∧ (decode c = some .next ↔ c = 0x02#8) ∧
    (decode c = some .next2 ↔ c = 0x03#8) ∧ (decode c = some .jump ↔ c = 0x04#8) ∧
    (decode c = some .fill ↔ c = 0x05#8) ∧ (decode c = some .peek ↔ c = 0x06#8) ∧
    (decode c = some .rdstate ↔ c = 0x07#8) ∧ (decode c = some .rdinc ↔ c = 0x08#8) ∧
    (decode c = some .restore ↔ c = 0x09#8)) ∧
  Instr.all.map Instr.format = [.ab, .a, .n, .n, .n, .a, .a, .n, .n, .n, .ab] ∧
  decodeTableWord 8 0b00000001 = some .initX ∧ decodeTableWord 8 0b00010001 = some .initS ∧
  decodeTableWord 8 0b00000100 = some .jump ∧ decodeTableWord 8 0b00001001 = some .restore ∧
  decodeTableWord 8 0b00110001 = none

/-- R75: with RSV = 00 and OPC = 0x1, SRC selects the INIT and with it the multiplexer's inputs. -/
def Obligations.SeedSourceField : Prop :=
  (∀ c : CmdWord, c.extractLsb' 6 2 = 0b00#2 → c.extractLsb' 0 4 = 0x1#4 →
    decode c =
      if c.extractLsb' 4 2 = 0b00#2 then some .initX
      else if c.extractLsb' 4 2 = 0b01#2 then some .initS
      else if c.extractLsb' 4 2 = 0b10#2 then some .initD
      else none) ∧
  (∀ (cfg : Config) (t : Transaction cfg.w),
    seedMux cfg t .explicit = (t.opa, t.opb) ∧
    seedMux cfg t .seedOnly = (t.opa, cfg.defaultStream) ∧
    seedMux cfg t .defaulted =
      (if t.ent.avail then t.ent.seed else cfg.fallbackSeed,
       if t.ent.avail then t.ent.stream else cfg.fallbackStream))

/-- R76: exactly which words are reserved (245 of 256, 0x00 and 0xFF among them), and all that a reserved word does: one
error response with data 0, no register changed, no byte, whatever stands on the operand buses and the entropy port; the
block is then at the host's next event. What the host notes and the model's mark are left open here. -/
def Obligations.ReservedWordsAreRefusedWithoutEffect : Prop :=
  (∀ c : CmdWord,
    decode c = none ↔
      (c.extractLsb' 6 2 ≠ 0b00#2 ∨ c.extractLsb' 0 4 = 0x0#4 ∨ 0xA ≤ (c.extractLsb' 0 4).toNat ∨
        (c.extractLsb' 0 4 = 0x1#4 ∧ c.extractLsb' 4 2 = 0b11#2) ∨
        (0x2 ≤ (c.extractLsb' 0 4).toNat ∧ (c.extractLsb' 0 4).toNat ≤ 0x9 ∧ c.extractLsb' 4 2 ≠ 0b00#2))) ∧
  ((List.range 256).filter fun n => (decode (BitVec.ofNat 8 n)).isNone).length = 245 ∧
  decode 0x00#8 = none ∧ decode 0xFF#8 = none ∧
  (∀ (s : State) (t : Transaction s.cfg.w) (rest : List (HostEvent s.cfg.w)),
    s.script = .command t :: rest → decode t.cmd = none →
    ∃ rec mark, step s = .next
      { s with
        port := t, script := rest, rsp := some { err := true, data := 0 }, bytes := [], record := rec,
        illegalSeen := mark })

/-- R80 with R71, R73: assembling a well-formed line and reading the triple back gives the line, at every width and for
every value of every operand. -/
def Obligations.AssembledLinesReadBack : Prop :=
  ∀ (w : Nat) (l : Line), l.wellFormed w = true →
    ∃ c : Command w, assemble w l = some c ∧ disassemble c = some l

/-- R73, R80, the other direction: the line a triple is written as assembles to that triple with the buses its command
does not read at 0. -/
def Obligations.DisassembledTriplesAssembleBack : Prop :=
  ∀ (w : Nat) (c : Command w) (l : Line), disassemble c = some l →
    l.wellFormed w = true ∧
    assemble w l = some
      { cmd := c.cmd
        opa := if l.instr.format.readsOpa then c.opa else 0
        opb := if l.instr.format.readsOpb then c.opb else 0 }

/-- R81: every pseudo-instruction expands as its row says, in every configuration. -/
def Obligations.PseudoInstructionsExpand : Prop :=
  ∀ v : Variant,
    (∀ a s, a < 2 ^ v.stateWidth → s < 2 ^ v.stateWidth →
      expandPseudo v (.seeds a s) = some { instr := .initX, opa := a, opb := s }) ∧
    (∀ a, a < 2 ^ v.stateWidth → expandPseudo v (.seed a) = some { instr := .initS, opa := a, opb := 0 }) ∧
    expandPseudo v .seedd = some { instr := .initD, opa := 0, opb := 0 } ∧
    expandPseudo v .step = some { instr := .jump, opa := 1, opb := 0 } ∧
    (∀ c, 1 ≤ c → c < 2 ^ v.stateWidth →
      expandPseudo v (.back c) = some { instr := .jump, opa := 2 ^ v.stateWidth - c, opb := 0 }) ∧
    expandPseudo v (.back 0) = some { instr := .jump, opa := 0, opb := 0 } ∧
    (v.outWidth = 32 → expandPseudo v .next32 = some { instr := .next, opa := 0, opb := 0 }) ∧
    (v.outWidth ≠ 32 → expandPseudo v .next32 = none) ∧
    (v.outWidth = 32 → expandPseudo v .next64 = some { instr := .next2, opa := 0, opb := 0 }) ∧
    (v.outWidth = 64 → expandPseudo v .next64 = some { instr := .next, opa := 0, opb := 0 })

/-- R72, R73: an operand bus that the command's format does not read is ignored: any value on it gives the same outcome
but for the bus itself. -/
def Obligations.UnreadOperandBusesAreIgnored : Prop :=
  ∀ (i : Instr) (s : State) (a b : BitVec s.cfg.w),
    ∃ t u, exec i s = .next t ∧
      exec i (s.withOperands (if i.format.readsOpa then s.port.opa else a)
        (if i.format.readsOpb then s.port.opb else b)) = .next u ∧
      SameBlockAndOutputs t u

/-- R14, R58, R70: when the host's next event presents a word that decodes to a command, the step is that command's
meaning on the state with the inputs sampled, the event taken and the outputs of the transition before over; the host
then notes the response and the bytes. -/
def Obligations.StepRunsTheDecodedCommand : Prop :=
  ∀ (s : State) (t : Transaction s.cfg.w) (rest : List (HostEvent s.cfg.w)) (i : Instr),
    s.script = .command t :: rest → decode t.cmd = some i →
    ∃ u, exec i { s with port := t, script := rest, rsp := none, bytes := [] } = .next u ∧
      step s = .next { u with record := u.record ++ [{ rsp := u.rsp, bytes := u.bytes }] }

/-! ## The state engine -/

/-- R100, R101: `advance` is the exact integer expression reduced modulo 2^W once; keeping the low W bits of the product
first, then of the sum, is the same. -/
def Obligations.AdvanceIsMultiplyAddMod : Prop :=
  ∀ (w : Nat) (mult s c : BitVec w),
    (advance mult s c).toNat = (s.toNat * mult.toNat + c.toNat) % 2 ^ w ∧
    (advance mult s c).toNat = (s.toNat * mult.toNat % 2 ^ w + c.toNat) % 2 ^ w

/-- R104: the worked values of `advance` at W = 64. -/
def Obligations.AdvanceWorkedValues : Prop :=
  let m : BitVec 64 := 0x5851F42D4C957F2D#64
  advance m 0 1 = 1 ∧ advance m 0 0x6D = 0x6D ∧ advance m 1 1 = 0x5851F42D4C957F2E ∧
  advance m 0xFFFFFFFFFFFFFFFF 1 = 0xA7AE0BD2B36A80D4 ∧ advance m 0xFFFFFFFFFFFFFFFF 1 = 1 - m ∧
  advance m 0xFFFFFFFFFFFFFFFF 0xFFFFFFFFFFFFFFFF = 0xA7AE0BD2B36A80D2 ∧
  advance m 0x8000000000000000 1 = 0x8000000000000001 ∧
  advance m 0x185706B82C2E03F8 0x6D = 0x2B47FED88766BB05

/-- R102: the product and sum built from two halves with explicit carry are `advance`. -/
def Obligations.HalvesComputeAdvance : Prop :=
  ∀ (h : Nat) (mh ml sh sl ch cl : BitVec h),
    advanceHalves mh ml sh sl ch cl = advance (mh ++ ml) (sh ++ sl) (ch ++ cl)

/-- R103(a): for fixed c and odd MULT, `advance` is a bijection on the W-bit values. -/
def Obligations.AdvanceIsBijective : Prop :=
  ∀ (w : Nat) (mult c : BitVec w), mult.getLsbD 0 = true → Function.Bijective fun s => advance mult s c

/-- R103(b): for odd c and MULT ≡ 1 (mod 4) the map has one cycle of length 2^W. -/
def Obligations.StreamHasFullPeriod : Prop :=
  ∀ (w : Nat) (mult c s : BitVec w), mult.toNat % 4 = 1 → c.getLsbD 0 = true →
    (∀ n, advanceBy mult c n s = s ↔ 2 ^ w ∣ n) ∧
    (∀ x, ∃ n, n < 2 ^ w ∧ advanceBy mult c n s = x)

/-- R103(d): bit j of `advance` depends only on bits j..0, and the low j bits form an LCG of period 2^j by themselves. -/
def Obligations.LowBitsAreASmallerGenerator : Prop :=
  ∀ (w j : Nat) (mult s c : BitVec w), j ≤ w →
    (advance mult s c).setWidth j = advance (mult.setWidth j) (s.setWidth j) (c.setWidth j) ∧
    (mult.toNat % 4 = 1 → c.getLsbD 0 = true →
      ∀ n, (advanceBy mult c n s).setWidth j = s.setWidth j ↔ 2 ^ j ∣ n)

/-- R105: k applications of `advance` are `A(k) * s + G(k) * c`, with A(k) the power and G(k) the geometric sum, each
reduced modulo 2^W. -/
def Obligations.AdvanceByClosedForm : Prop :=
  ∀ (w : Nat) (mult c s : BitVec w) (k : Nat),
    advanceBy mult c k s = multPower mult k * s + geomSum mult k * c ∧
    (multPower mult k).toNat = mult.toNat ^ k % 2 ^ w ∧
    (geomSum mult k).toNat = (∑ j ∈ Finset.range k, mult.toNat ^ j) % 2 ^ w ∧
    multPower mult 0 = 1 ∧ geomSum mult 0 = 0

/-- R106: the quotient is the exact quotient of integers and equals the geometric sum; modulo 2^W it does not exist, for
MULT − 1 is even and has no inverse; for MULT = 1 the sum is k, and no admitted MULT is 1. -/
def Obligations.QuotientIsTheGeometricSum : Prop :=
  (∀ m k : Nat, 2 ≤ m → (∑ j ∈ Finset.range k, m ^ j) * (m - 1) = m ^ k - 1 ∧
    ∑ j ∈ Finset.range k, m ^ j = (m ^ k - 1) / (m - 1)) ∧
  (∀ (w : Nat) (mult : BitVec w), 0 < w → mult.getLsbD 0 = true → ¬ ∃ x, (mult - 1) * x = 1) ∧
  (∀ (w k : Nat), geomSum (1 : BitVec w) k = BitVec.ofNat w k) ∧
  (∀ (v : Variant) (tap : OutTap), (standardConfig v tap).mult ≠ 1 ∧ (standardConfig v tap).mult.getLsbD 0 = true)

/-- R108: after j passes the CUR registers hold `advance` applied 2^j times and the ACC registers hold it applied
`k mod 2^j` times, as maps; the loop makes one pass per bit up to the highest set bit of k, at most W, and ends with
DELTA = 0. -/
def Obligations.IteratorPassesHoldPowersOfAdvance : Prop :=
  ∀ (w : Nat) (mult c k : BitVec w),
    (∀ j, j ≤ w →
      iteratorPass^[j] (iteratorLoad mult c k) =
        { accMult := multPower mult (k.toNat % 2 ^ j)
          accPlus := geomSum mult (k.toNat % 2 ^ j) * c
          curMult := multPower mult (2 ^ j)
          curPlus := geomSum mult (2 ^ j) * c
          delta := k >>> j }) ∧
    iteratorRun mult c k = iteratorPass^[k.toNat.size] (iteratorLoad mult c k) ∧
    k.toNat.size ≤ w ∧ (iteratorRun mult c k).delta = 0

/-- R107 with R105: on exit ACC_MULT = A(k) and ACC_PLUS = G(k) * c, and the result is `advance` applied k times. -/
def Obligations.IteratorComputesAdvanceBy : Prop :=
  ∀ (w : Nat) (mult c k s : BitVec w),
    (iteratorRun mult c k).accMult = multPower mult k.toNat ∧
    (iteratorRun mult c k).accPlus = geomSum mult k.toNat * c ∧
    iteratorResult (iteratorRun mult c k) s = advanceBy mult c k.toNat s

/-- R112: the register trace for k = 5, c = 0x6D, W = 64. -/
def Obligations.IteratorTraceForFive : Prop :=
  let start := iteratorLoad 0x5851F42D4C957F2D#64 0x6D#64 5#64
  start = ⟨0x1, 0x0, 0x5851F42D4C957F2D, 0x6D, 5⟩ ∧
  iteratorPass start = ⟨0x5851F42D4C957F2D, 0x6D, 0x685F98A2018FADE9, 0x9AE4F7499BA72696, 2⟩ ∧
  iteratorPass (iteratorPass start) = ⟨0x5851F42D4C957F2D, 0x6D, 0xFB4D3AE39272BE11, 0xBC79DBE95FA6A31C, 1⟩ ∧
  iteratorPass (iteratorPass (iteratorPass start)) =
    ⟨0x696D29DA565AD7FD, 0xBC5BEECEBA819059, 0xB59DDA5F38413D21, 0xCD654675013E3FF8, 0⟩ ∧
  iteratorResult (iteratorPass (iteratorPass (iteratorPass start))) 0x185706B82C2E03F8#64 = 0x8303569FBE80C471

/-- R109: jumping by 0 and 1; going back by 2^W − j, also 2^W steps are the identity (R103(c)); and 2^(W−1) steps flip only
the top bit. -/
def Obligations.JumpDistancesAtTheEdges : Prop :=
  ∀ (w : Nat) (mult c s : BitVec w),
    advanceBy mult c 0 s = s ∧ advanceBy mult c 1 s = advance mult s c ∧
    (mult.toNat % 4 = 1 → c.getLsbD 0 = true →
      advanceBy mult c (2 ^ w) s = s ∧
      (∀ j, 1 ≤ j → j < 2 ^ w → advanceBy mult c (2 ^ w - j) (advanceBy mult c j s) = s) ∧
      multPower mult (2 ^ (w - 1)) = 1 ∧
      advanceBy mult c (2 ^ (w - 1)) s = s + BitVec.ofNat w (2 ^ (w - 1)) * c ∧
      advanceBy mult c (2 ^ (w - 1)) s = s ^^^ BitVec.ofNat w (2 ^ (w - 1)))

/-! ## JUMP -/

/-- R110: JUMP (word 0x04, format A) always completes; STATE becomes `advance` applied OPA times, the iterator registers are
overwritten, the response is 0 without error, and nothing else changes; with the rule's example. A NEXT2 counts as 2
positions, a FILL of n bytes as ⌈8n / O⌉. -/
def Obligations.JumpAdvancesByOpa : Prop :=
  decode 0x04#8 = some .jump ∧ Instr.jump.format = .a ∧
  observe (execLine { instr := .jump, opa := 5, opb := 0 } State.reset) =
    some (0x8303569FBE80C471, 0x6D, some (false, 0), []) ∧
  ∀ s : State, ∃ it,
    exec .jump s = .next
      { s with
        state := advanceBy s.cfg.mult s.inc s.port.opa.toNat s.state
        iter := it
        rsp := some { err := false, data := 0 } } ∧
    (∃ t u, execLine { instr := .jump, opa := 2, opb := 0 } s = .next t ∧ exec .next2 s = .next u ∧ SameBlock t u) ∧
    ∀ n, n < 2 ^ s.cfg.w → ∃ t u,
      execLine { instr := .jump, opa := (8 * n + (s.cfg.o - 1)) / s.cfg.o, opb := 0 } s = .next t ∧
      execLine { instr := .fill, opa := n, opb := 0 } s = .next u ∧ SameBlock t u

/-- R111: for every STATE, INC, k and both taps, JUMP k leaves the block as k NEXTs do and as k commands JUMP 1 do; and
(MULT ≡ 1 mod 4, as every admitted one) JUMP a then JUMP b equals JUMP ((a + b) mod 2^W). -/
def Obligations.JumpEqualsThatManyNexts : Prop :=
  ∀ s : State,
    (∀ k, k < 2 ^ s.cfg.w → ∃ t u v,
      execLine { instr := .jump, opa := k, opb := 0 } s = .next t ∧
      execLines (List.replicate k { instr := .next, opa := 0, opb := 0 }) s = .next u ∧
      execLines (List.replicate k { instr := .jump, opa := 1, opb := 0 }) s = .next v ∧
      SameBlock t u ∧ SameBlock t v) ∧
    (s.cfg.mult.toNat % 4 = 1 → ∀ a b, a < 2 ^ s.cfg.w → b < 2 ^ s.cfg.w → ∃ t u,
      execLines [{ instr := .jump, opa := a, opb := 0 }, { instr := .jump, opa := b, opb := 0 }] s = .next t ∧
      execLine { instr := .jump, opa := (a + b) % 2 ^ s.cfg.w, opb := 0 } s = .next u ∧
      SameBlock t u)

/-! ## The output permutation -/

/-- R134: in the three XSH_RR configurations O = W/2, B = log2 O, XS = ⌊(B+O)/2⌋, DS = O − B, and `permute` is the
xorshift, truncation to O bits and rotate by the top B bits. -/
def Obligations.XshRrConstantsAndFormula : Prop :=
  ∀ (v : Variant) (tap : OutTap), v.perm = .xshRr →
    v.stateWidth = 2 * v.outWidth ∧
    ∃ b xs ds, 2 ^ b = v.outWidth ∧ xs = (b + v.outWidth) / 2 ∧ ds = v.outWidth - b ∧
      ∀ s : BitVec v.stateWidth,
        permute (standardConfig v tap) s =
          ((((s >>> xs) ^^^ s) >>> ds).setWidth v.outWidth).rotateRight (s >>> (v.stateWidth - b)).toNat

/-- R135: the default permutation written out, bit by bit, its independence of bits 26..0, and its example. -/
def Obligations.DefaultPermutationBitByBit : Prop :=
  ∀ (tap : OutTap) (s : BitVec 64),
    let out : BitVec 32 := permute (standardConfig .cfg64x32XshRr tap) s
    let rot := (s >>> 59).toNat
    let x : BitVec 32 := (((s >>> 18) ^^^ s) >>> 27).setWidth 32
    out = x.rotateRight rot ∧
    (∀ i, i ≤ 18 → x.getLsbD i = (s.getLsbD (i + 27) ^^ s.getLsbD (i + 45))) ∧
    (∀ i, 19 ≤ i → i ≤ 31 → x.getLsbD i = s.getLsbD (i + 27)) ∧
    (∀ i, i < 32 → out.getLsbD i = x.getLsbD ((i + rot) % 32)) ∧
    (∀ s' : BitVec 64, (∀ i, 27 ≤ i → i < 64 → s'.getLsbD i = s.getLsbD i) →
      permute (standardConfig .cfg64x32XshRr tap) s' = out) ∧
    topBits 5 0x185706B82C2E03F8#64 = 3 ∧
    ((foldDown 18 0x185706B82C2E03F8#64) >>> 27).setWidth 32 = 0x0AE015BD#32 ∧
    (permute (standardConfig .cfg64x32XshRr tap) 0x185706B82C2E03F8#64).toNat = 0xA15C02B7

/-- R136: XSH_RR 128→64 and 32→16 written out, with the examples. -/
def Obligations.WideAndNarrowXshRr : Prop :=
  ∀ tap : OutTap,
    (∀ s : BitVec 128, permute (standardConfig .cfg128x64XshRr tap) s =
      ((((s >>> 35) ^^^ s) >>> 58).setWidth 64).rotateRight (s >>> 122).toNat) ∧
    (∀ s : BitVec 32, permute (standardConfig .cfg32x16XshRr tap) s =
      ((((s >>> 10) ^^^ s) >>> 12).setWidth 16).rotateRight (s >>> 28).toNat) ∧
    (permute (standardConfig .cfg128x64XshRr tap) 0xDE2BCE05BE013BE3D3F6C45A41E54320#128).toNat = 0xE702D2E22111B315 ∧
    (permute (standardConfig .cfg32x16XshRr tap) 0x4A649C30#32).toNat = 0x0A76 ∧
    (permute (standardConfig .cfg32x16XshRr tap) 0xFFFFFFFF#32).toNat = 0xF801

/-- R137: with the top B bits all 0 the output is x; a state below 2^DS gives 0, in every XSH_RR configuration; and the
corner values at 64→32. -/
def Obligations.XshRrCornerCases : Prop :=
  (∀ (v : Variant) (tap : OutTap) (s : BitVec v.stateWidth), v.perm = .xshRr →
    (s.toNat < 2 ^ (v.stateWidth - (xshRrValue v).selBits) →
      permute (standardConfig v tap) s =
        (((s >>> (xshRrValue v).xorShift) ^^^ s) >>> (xshRrValue v).downShift).setWidth v.outWidth) ∧
    (s.toNat < 2 ^ (xshRrValue v).downShift → permute (standardConfig v tap) s = 0)) ∧
  (∀ tap : OutTap,
    foldDown 18 0xFFFFFFFFFFFFFFFF#64 = 0xFFFFC00000000000#64 ∧ topBits 5 0xFFFFFFFFFFFFFFFF#64 = 31 ∧
    (foldDown 18 0xFFFFFFFFFFFFFFFF#64 >>> 27).setWidth 32 = 0xFFF80000#32 ∧
    topBits 5 0x8000000000000000#64 = 16 ∧
    (foldDown 18 0x8000000000000000#64 >>> 27).setWidth 32 = 0x00040000#32 ∧
    (permute (standardConfig .cfg64x32XshRr tap) 0#64).toNat = 0 ∧
    (permute (standardConfig .cfg64x32XshRr tap) 0xFFFFFFFFFFFFFFFF#64).toNat = 0xFFF00001 ∧
    (permute (standardConfig .cfg64x32XshRr tap) 1#64).toNat = 0 ∧
    (permute (standardConfig .cfg64x32XshRr tap) 0x8000000000000000#64).toNat = 0x00000004)

/-- R138, R139, R140: the optional permutations' formulas and examples, as the standard configurations carry them in
`optionalPermute` (R141: no source document prints these formulas; notes/assumptions/3.md). -/
def Obligations.OptionalPermutations : Prop :=
  ∀ tap : OutTap,
    (∀ s : BitVec 64, permute (standardConfig .cfg64x32XshRs tap) s =
      (((s >>> 22) ^^^ s) >>> (22 + (s >>> 61).toNat)).setWidth 32) ∧
    (∀ s : BitVec 64, permute (standardConfig .cfg64x64RxsMXs tap) s =
      let w : BitVec 64 := ((s >>> ((s >>> 59).toNat + 5)) ^^^ s) * 12605985483714917081#64
      (w >>> 43) ^^^ w) ∧
    (∀ s : BitVec 32, permute (standardConfig .cfg32x32RxsMXs tap) s =
      let w : BitVec 32 := ((s >>> ((s >>> 28).toNat + 4)) ^^^ s) * 277803737#32
      (w >>> 22) ^^^ w) ∧
    (∀ s : BitVec 128, permute (standardConfig .cfg128x64XslRr tap) s =
      (((s >>> 64) ^^^ s).setWidth 64).rotateRight (s >>> 122).toNat) ∧
    (permute (standardConfig .cfg64x32XshRs tap) 0x185706B82C2E03F8#64).toNat = 0x5C1B65C0 ∧
    (permute (standardConfig .cfg64x32XshRs tap) 0xFFFFFFFFFFFFFFFF#64).toNat = 0xFFFFE000 ∧
    (permute (standardConfig .cfg64x64RxsMXs tap) 0x185706B82C2E03F8#64).toNat = 0xE1CBC180B69606BB ∧
    (permute (standardConfig .cfg64x64RxsMXs tap) 0#64).toNat = 0 ∧
    (permute (standardConfig .cfg32x32RxsMXs tap) 1#32).toNat = 0x108EF29B ∧
    (permute (standardConfig .cfg32x32RxsMXs tap) 0x12345678#32).toNat = 0x28AE66B1 ∧
    (permute (standardConfig .cfg128x64XslRr tap) 0x10AF065F4EA96E857BB2A7886ECBD80D#128).toNat = 0x86B1DA1D72062B68

/-- R141: where PERM is not XSH_RR, `permute` is the function the configuration carries: every function from W bits to O
bits is the `permute` of a configuration that differs from the given one in that field alone; and where PERM is XSH_RR the
field has no influence. -/
def Obligations.OptionalPermuteIsAnyFunction : Prop :=
  ∀ cfg : Config,
    (cfg.variant.perm ≠ .xshRr → ∀ f : BitVec cfg.w → BitVec cfg.o,
      ∃ e : Formula, permute { cfg with optionalPermute := e } = f) ∧
    (cfg.variant.perm = .xshRr → ∀ e : Formula, permute { cfg with optionalPermute := e } = permute cfg)

/-- R130: which different states the standard `permute` takes to one output word where O < W, so that it is not injective.
XSH_RR: of states with the same rotate amount, exactly those that agree from bit DS up. XSH_RS: of a state and one that
differs from it below bit 44 alone, exactly when the difference lies below the data-dependent shift. XSL_RR: of a state and
one that differs from it outside the top 6 bits, exactly when both halves differ in the same bits. -/
def Obligations.PermuteIsNotInjective : Prop :=
  ∀ tap : OutTap,
    (∀ (v : Variant) (s s' : BitVec v.stateWidth), v.perm = .xshRr →
      topBits (xshRrValue v).selBits s = topBits (xshRrValue v).selBits s' →
      (permute (standardConfig v tap) s = permute (standardConfig v tap) s' ↔
        s >>> (xshRrValue v).downShift = s' >>> (xshRrValue v).downShift)) ∧
    (∀ s d : BitVec 64, d.toNat < 2 ^ 44 →
      (permute (standardConfig .cfg64x32XshRs tap) (s ^^^ d) = permute (standardConfig .cfg64x32XshRs tap) s ↔
        d.toNat < 2 ^ (22 + (s >>> 61).toNat))) ∧
    (∀ (s : BitVec 128) (hi lo : BitVec 64), hi.toNat < 2 ^ 58 →
      (permute (standardConfig .cfg128x64XslRr tap) (s ^^^ (hi ++ lo)) =
        permute (standardConfig .cfg128x64XslRr tap) s ↔ hi = lo)) ∧
    (∀ v : Variant, v.outWidth < v.stateWidth → ∃ s s' : BitVec v.stateWidth,
      s ≠ s' ∧ permute (standardConfig v tap) s = permute (standardConfig v tap) s')

/-- R142: PEEK (word 0x06, format N) always completes with the current state's word and writes nothing; its result does not depend on INC or
OUT_TAP; with OUT_TAP = NEW a PEEK right after a NEXT returns the word that NEXT returned, with OLD a PEEK right before
returns the word the NEXT will return. -/
def Obligations.PeekReturnsTheCurrentWord : Prop :=
  decode 0x06#8 = some .peek ∧ Instr.peek.format = .n ∧
  observe (exec .peek State.reset) = some (0x185706B82C2E03F8, 0x6D, some (false, 0xA15C02B7), []) ∧
  ∀ s : State,
    exec .peek s = .next
      { s with rsp := some { err := false, data := (permute s.cfg s.state).setWidth s.cfg.rw } } ∧
    (∀ (tap : OutTap) (hi : BitVec (s.cfg.w - 1)), ∃ t u,
      exec .peek s = .next t ∧ exec .peek ({ s with incHi := hi }.withTap tap) = .next u ∧
      (u.rsp.map fun r => r.data.toNat) = t.rsp.map fun r => r.data.toNat) ∧
    (s.cfg.outTap = .new → ∃ t u, exec .next s = .next t ∧ exec .peek t = .next u ∧ SameBlockAndOutputs t u) ∧
    (s.cfg.outTap = .old → ∃ t u, exec .peek s = .next t ∧ exec .next t = .next u ∧
      (u.rsp.map fun r => r.data.toNat) = t.rsp.map fun r => r.data.toNat)

/-! ## NEXT, NEXT2, FILL -/

/-- R160: NEXT (word 0x02, format N) always completes: STATE is advanced once, the response is the word of the new state (OUT_TAP = NEW) or of
the old one (OLD), zero-extended, and nothing else changes; with the rule's examples. That states do not repeat within a period is
StateRepeatsOnlyAfterAWholePeriod. -/
def Obligations.NextAdvancesAndReturnsTheTappedWord : Prop :=
  decode 0x02#8 = some .next ∧ Instr.next.format = .n ∧
  observe (exec .next State.reset) = some (0x2B47FED88766BB05, 0x6D, some (false, 0x7B47F409), []) ∧
  observe (exec .next (State.reset.withTap .old)) = some (0x2B47FED88766BB05, 0x6D, some (false, 0xA15C02B7), []) ∧
  ∀ s : State,
    exec .next s = .next
      { s with
        state := s.state * s.cfg.mult + s.inc
        rsp := some
          { err := false
            data := (permute s.cfg
              (match s.cfg.outTap with
                | .new => s.state * s.cfg.mult + s.inc
                | .old => s.state)).setWidth s.cfg.rw } }

/-- R160 (corner cases), R103(b): the STATE k NEXTs leave is the STATE before them only for k a multiple of 2^W. -/
def Obligations.StateRepeatsOnlyAfterAWholePeriod : Prop :=
  ∀ (s : State) (k : Nat), s.cfg.mult.toNat % 4 = 1 → ∃ t,
    execLines (List.replicate k { instr := .next, opa := 0, opb := 0 }) s = .next t ∧
    (t.state.toNat = s.state.toNat ↔ 2 ^ s.cfg.w ∣ k)

/-- R161: the STATE sequence is the same for both taps; the (k+1)-st NEXT returns u_(k+1) under NEW and u_k under OLD, where
u_k is `permute` of the state after k NEXTs; PEEK before the first NEXT returns u_0 under either tap; after reset u_0 is
0xA15C02B7. -/
def Obligations.TapsDifferByOnePosition : Prop :=
  (permute State.reset.cfg State.reset.state).toNat = 0xA15C02B7 ∧
  ∀ (s : State) (k : Nat),
    let u := fun n => (permute s.cfg (advanceBy s.cfg.mult s.inc n s.state)).toNat
    ∃ tn told pn po,
      execLines (List.replicate (k + 1) { instr := .next, opa := 0, opb := 0 }) (s.withTap .new) = .next tn ∧
      execLines (List.replicate (k + 1) { instr := .next, opa := 0, opb := 0 }) (s.withTap .old) = .next told ∧
      exec .peek (s.withTap .new) = .next pn ∧ exec .peek (s.withTap .old) = .next po ∧
      tn.state.toNat = (advanceBy s.cfg.mult s.inc (k + 1) s.state).toNat ∧
      told.state.toNat = tn.state.toNat ∧
      (tn.rsp.map fun r => (r.err, r.data.toNat)) = some (false, u (k + 1)) ∧
      (told.rsp.map fun r => (r.err, r.data.toNat)) = some (false, u k) ∧
      (pn.rsp.map fun r => (r.err, r.data.toNat)) = some (false, u 0) ∧
      (po.rsp.map fun r => (r.err, r.data.toNat)) = some (false, u 0)

/-- R162: NEXT2 (word 0x03, format N) always completes; it is two NEXTs, the first word in the low half of the response, the second in the high
half; only STATE and the response change; with the rule's examples. -/
def Obligations.Next2IsTwoNexts : Prop :=
  decode 0x03#8 = some .next2 ∧ Instr.next2.format = .n ∧
  observe (exec .next2 State.reset) = some (0x8B33296D19BF5B4E, 0x6D, some (false, 0xBA1D33307B47F409), []) ∧
  observe (exec .next2 (State.reset.withTap .old)) =
    some (0x8B33296D19BF5B4E, 0x6D, some (false, 0x7B47F409A15C02B7), []) ∧
  ∀ s : State, ∃ t1 t2 w1 w2, ∃ d : BitVec s.cfg.rw,
    exec .next s = .next t1 ∧ exec .next t1 = .next t2 ∧
    (t1.rsp.map fun r => r.data.toNat) = some w1 ∧ (t2.rsp.map fun r => r.data.toNat) = some w2 ∧
    w1 < 2 ^ s.cfg.o ∧ w2 < 2 ^ s.cfg.o ∧ d.toNat = w2 * 2 ^ s.cfg.o + w1 ∧
    exec .next2 s = .next
      { s with
        state := advanceBy s.cfg.mult s.inc 2 s.state
        rsp := some { err := false, data := d } } ∧
    t2.state.toNat = (advanceBy s.cfg.mult s.inc 2 s.state).toNat

/-- R163, R164: FILL n (word 0x05, format A) always completes for every n: exactly n bytes, byte j being byte (j mod BPW) of word ⌊j / BPW⌋,
least significant first; STATE advanced ⌈n / BPW⌉ times; response 0 without error; nothing else changes; with the rule's example. -/
def Obligations.FillEmitsTheWordsBytes : Prop :=
  decode 0x05#8 = some .fill ∧ Instr.fill.format = .a ∧
  observe (execLine { instr := .fill, opa := 7, opb := 0 } State.reset) =
    some (0x8B33296D19BF5B4E, 0x6D, some (false, 0), [0x09, 0xF4, 0x47, 0x7B, 0x30, 0x33, 0x1D]) ∧
  ∀ s : State, ∃ bs : List Byte,
    exec .fill s = .next
      { s with
        state := advanceBy s.cfg.mult s.inc ((s.port.opa.toNat + (s.cfg.o / 8 - 1)) / (s.cfg.o / 8)) s.state
        bytes := s.bytes ++ bs
        rsp := some { err := false, data := 0 } } ∧
    bs.length = s.port.opa.toNat ∧
    ∀ j, j < s.port.opa.toNat →
      bs[j]? = some ((nextWord s.cfg s.inc
        (advanceBy s.cfg.mult s.inc (j / (s.cfg.o / 8)) s.state)).1.extractLsb' (8 * (j % (s.cfg.o / 8))) 8)

/-- R56: a NEXT2, two NEXTs and a FILL of two words' bytes from one state leave the same STATE, and the FILL's bytes are
the little-endian bytes of the NEXT2 response; a FILL of n bytes, n a multiple of the word's bytes, followed by a FILL of
m is the FILL of n + m, but not in general. -/
def Obligations.MixedWidthViewsOfTheOutput : Prop :=
  (∀ s : State, s.bytes = [] → ∃ t u v,
    exec .next2 s = .next t ∧
    execLine { instr := .fill, opa := 2 * (s.cfg.o / 8), opb := 0 } s = .next u ∧
    execLines (List.replicate 2 { instr := .next, opa := 0, opb := 0 }) s = .next v ∧
    SameBlock t u ∧ SameBlock t v ∧
    (t.rsp.map fun r => (List.range (2 * (s.cfg.o / 8))).map fun j => r.data.extractLsb' (8 * j) 8) = some u.bytes) ∧
  (∀ (s : State) (n m : Nat), (s.cfg.o / 8) ∣ n → n + m < 2 ^ s.cfg.w → ∃ t u,
    execLines [{ instr := .fill, opa := n, opb := 0 }, { instr := .fill, opa := m, opb := 0 }] s = .next t ∧
    execLine { instr := .fill, opa := n + m, opb := 0 } s = .next u ∧ SameBlock t u ∧ t.bytes = u.bytes) ∧
  (∃ (t u : State),
    execLines [{ instr := .fill, opa := 1, opb := 0 }, { instr := .fill, opa := 3, opb := 0 }] State.reset = .next t ∧
    execLine { instr := .fill, opa := 4, opb := 0 } State.reset = .next u ∧ t.bytes ≠ u.bytes)

/-! ## Seeding -/

/-- R180, R182: `init` over the integers, modulo 2^W; and the same as "set the state to 0, step, add the seed, step". -/
def Obligations.InitFormula : Prop :=
  ∀ (w : Nat) (mult seed sel : BitVec w),
    (initPair mult seed sel).2 = (sel <<< 1) ||| 1#w ∧
    (initPair mult seed sel).1 = advance mult (seed + (initPair mult seed sel).2) (initPair mult seed sel).2 ∧
    (initPair mult seed sel).2.toNat = (2 * sel.toNat + 1) % 2 ^ w ∧
    (initPair mult seed sel).1.toNat =
      ((seed.toNat + (initPair mult seed sel).2.toNat) % 2 ^ w * mult.toNat + (initPair mult seed sel).2.toNat) % 2 ^ w ∧
    advance mult 0 (initPair mult seed sel).2 = (initPair mult seed sel).2 ∧
    (initPair mult seed sel).1 =
      advance mult (advance mult 0 (initPair mult seed sel).2 + seed) (initPair mult seed sel).2

/-- R181: bit 0 of the increment is 1, bit j+1 is bit j of the selector, and two selectors give the same increment exactly
when they agree in their low W−1 bits. -/
def Obligations.SelectorBitsOfTheIncrement : Prop :=
  ∀ (w : Nat) (mult seed sel sel' : BitVec w), 0 < w →
    (initPair mult seed sel).2.getLsbD 0 = true ∧
    (∀ j, j + 1 < w → (initPair mult seed sel).2.getLsbD (j + 1) = sel.getLsbD j) ∧
    ((initPair mult seed sel).2 = (initPair mult seed sel').2 ↔ sel.toNat % 2 ^ (w - 1) = sel'.toNat % 2 ^ (w - 1)) ∧
    initPair mult seed (sel + BitVec.ofNat w (2 ^ (w - 1))) = initPair mult seed sel

/-- R183: for a fixed selector and odd MULT the seed determines STATE one to one, so every STATE value can be reached by
seeding. -/
def Obligations.SeedingReachesEveryState : Prop :=
  ∀ (w : Nat) (mult sel : BitVec w), mult.getLsbD 0 = true →
    Function.Bijective fun seed => (initPair mult seed sel).1

/-- R185, R186, R187: each INIT (words 0x01, 0x11, 0x21, formats AB, A, N) always completes; it loads `init` of its seed and
selector and answers 0 without error; INC then reads `(sel << 1) | 1`; nothing else changes; with ENT_AVAIL = 0 an INIT.D
puts the registers in exactly their reset state; with the rules' examples. -/
def Obligations.SeedingCommandsLoadInit : Prop :=
  decode 0x01#8 = some .initX ∧ decode 0x11#8 = some .initS ∧ decode 0x21#8 = some .initD ∧
  [Instr.initX, .initS, .initD].map Instr.format = [.ab, .a, .n] ∧
  observe (execLine { instr := .initX, opa := 42, opb := 54 } State.reset) =
    some (0x185706B82C2E03F8, 0x6D, some (false, 0), []) ∧
  observe (execLine { instr := .initX, opa := 0, opb := 0 } State.reset) =
    some (0x5851F42D4C957F2E, 0x1, some (false, 0), []) ∧
  observe (execLine { instr := .initS, opa := 42, opb := 0 } State.reset) =
    some (0x185706B82C2E03F8, 0x6D, some (false, 0), []) ∧
  observe (execLine { instr := .initS, opa := 0xDEADBEEF, opb := 0 } State.reset) =
    some (0x2DA7F1BB07054799, 0x6D, some (false, 0), []) ∧
  observe (execLine { instr := .initS, opa := 0, opb := 0 } State.reset) =
    some (0x9AE4F7499BA72696, 0x6D, some (false, 0), []) ∧
  observe (execLine { instr := .initS, opa := 0xFFFFFFFFFFFFFF93, opb := 0 } State.reset) =
    some (0x6D, 0x6D, some (false, 0), []) ∧
  observe (exec .initD (State.reset.withEntropy { avail := false, seed := 1, stream := 2 })) =
    some (0x185706B82C2E03F8, 0x6D, some (false, 0), []) ∧
  ∀ s : State,
    let seeded := fun (seed sel : BitVec s.cfg.w) =>
      ({ s with
          state := (initPair s.cfg.mult seed sel).1
          incHi := incStore (initPair s.cfg.mult seed sel).2
          rsp := some { err := false, data := 0 } } : State)
    exec .initX s = .next (seeded s.port.opa s.port.opb) ∧
    exec .initS s = .next (seeded s.port.opa s.cfg.defaultStream) ∧
    exec .initD s = .next
      (if s.port.ent.avail then seeded s.port.ent.seed s.port.ent.stream
       else seeded s.cfg.fallbackSeed s.cfg.fallbackStream) ∧
    (s.port.ent.avail = false → ∃ u, exec .initD s = .next u ∧
      SameBlock { s with state := (State.resetOf s.cfg).state, incHi := (State.resetOf s.cfg).incHi } u) ∧
    ∀ seed sel : BitVec s.cfg.w, (seeded seed sel).inc = (sel <<< 1) ||| 1#_

/-- R189: an INIT or RESTORE replaces STATE and INC and nothing of the previous generator survives. -/
def Obligations.ReseedingForgetsTheOldGenerator : Prop :=
  ∀ (i : Instr) (s : State) (st : BitVec s.cfg.w) (hi : BitVec (s.cfg.w - 1)),
    i = .initX ∨ i = .initS ∨ i = .initD ∨ i = .restore →
    ∃ t, exec i s = .next t ∧ exec i { s with state := st, incHi := hi } = .next t

/-- R16, R188: no command but INIT.D with ENT_AVAIL = 1 depends on the entropy port. -/
def Obligations.EntropyIsReadOnlyByInitD : Prop :=
  ∀ (i : Instr) (s : State) (e : EntropyPort s.cfg.w),
    i ≠ .initD ∨ (s.port.ent.avail = false ∧ e.avail = false) →
    ∃ t u, exec i s = .next t ∧ exec i (s.withEntropy e) = .next u ∧ SameBlockAndOutputs t u

/-! ## State access -/

/-- R200, R201, R202: RDSTATE (0x07, N) and RDINC (0x08, N) always complete, answer the register and write nothing, bit 0 of
RDINC being 1; RESTORE (0x09, AB) always completes, loads OPA and OPB | 1, answers 0, and changes nothing else; every
(STATE, odd INC) pair is reached by a RESTORE; with the rules' examples. -/
def Obligations.RegisterReadsAndRestore : Prop :=
  decode 0x07#8 = some .rdstate ∧ decode 0x08#8 = some .rdinc ∧ decode 0x09#8 = some .restore ∧
  [Instr.rdstate, .rdinc, .restore].map Instr.format = [.n, .n, .ab] ∧
  observe (exec .rdstate State.reset) = some (0x185706B82C2E03F8, 0x6D, some (false, 0x185706B82C2E03F8), []) ∧
  observe (exec .rdinc State.reset) = some (0x185706B82C2E03F8, 0x6D, some (false, 0x6D), []) ∧
  observe (execLines [{ instr := .restore, opa := 0x8303569FBE80C471, opb := 0x6D }, { instr := .next, opa := 0, opb := 0 }]
    State.reset) = some (0xBEB6D0B73FDB974A, 0x6D, some (false, 0xBFC6A3AD), []) ∧
  observe (execLine { instr := .restore, opa := 0, opb := 0x6C } State.reset) = some (0, 0x6D, some (false, 0), []) ∧
  ∀ s : State,
    exec .rdstate s = .next { s with rsp := some { err := false, data := s.state.setWidth s.cfg.rw } } ∧
    exec .rdinc s = .next { s with rsp := some { err := false, data := s.inc.setWidth s.cfg.rw } } ∧
    (s.inc.setWidth s.cfg.rw).getLsbD 0 = true ∧
    (∃ hi : BitVec (s.cfg.w - 1),
      exec .restore s = .next
        { s with state := s.port.opa, incHi := hi, rsp := some { err := false, data := 0 } } ∧
      ({ s with incHi := hi } : State).inc = s.port.opb ||| 1#_) ∧
    ∀ x y, x < 2 ^ s.cfg.w → y < 2 ^ s.cfg.w → y % 2 = 1 → ∃ t,
      execLine { instr := .restore, opa := x, opb := y } s = .next t ∧ t.state.toNat = x ∧ t.inc.toNat = y

/-- R203: reading STATE and INC and restoring them into any instance of the same configuration gives an instance that
answers every further run of the host's script with the same responses, bytes and registers. -/
def Obligations.CheckpointResumesTheSequence : Prop :=
  ∀ (s t : State) (x y : Nat),
    (∃ a b, exec .rdstate s = .next a ∧ exec .rdinc s = .next b ∧
      (a.rsp.map fun r => r.data.toNat) = some x ∧ (b.rsp.map fun r => r.data.toNat) = some y) →
    (∃ st hi it p rsp bytes rec mark, t = s.another st hi it p rsp bytes rec mark) →
    ∃ u, execLine { instr := .restore, opa := x, opb := y } t = .next u ∧ SameBlock s u ∧
      ∀ k, ∃ s' u', runSteps (k + 1) s = .next s' ∧ runSteps (k + 1) u = .next u' ∧ SameBlockAndOutputs s' u'

/-! ## The machine as a whole -/

/-- R220, R15, R78: every command completes in every state and configuration, without error. -/
def Obligations.NoLegalCommandFails : Prop :=
  ∀ (i : Instr) (s : State), ∃ t r, exec i s = .next t ∧ t.rsp = some r ∧ r.err = false

/-- R24, R21: which command writes STATE, INC, the hidden registers, the response data and the byte stream; everything else
is unchanged by every command. -/
def Obligations.CommandsWriteOnlyWhatTheTableSays : Prop :=
  ∀ (i : Instr) (s : State), ∃ st hi it r bs,
    exec i s = .next
      { s with state := st, incHi := hi, iter := it, rsp := some r, bytes := s.bytes ++ bs } ∧
    r.err = false ∧
    (i = .peek ∨ i = .rdstate ∨ i = .rdinc → st = s.state) ∧
    (i ≠ .initX → i ≠ .initS → i ≠ .initD → i ≠ .restore → hi = s.incHi) ∧
    (i ≠ .jump → it = s.iter) ∧
    (i ≠ .next → i ≠ .next2 → i ≠ .peek → i ≠ .rdstate → i ≠ .rdinc → r.data = 0) ∧
    (i ≠ .fill → bs = []) ∧
    (i = .fill → bs.length = s.port.opa.toNat)

/-- R79, R58: every presented word gets exactly one response, in order, noted after all earlier ones; RSP_ERR is 1 exactly
for a reserved word whatever came before, and RSP_DATA is then 0; the configuration never changes. -/
def Obligations.OneResponsePerCommand : Prop :=
  ∀ (s : State) (t : Transaction s.cfg.w) (rest : List (HostEvent s.cfg.w)), s.script = .command t :: rest →
    ∃ st hi it r bs mark,
      step s = .next
        { s with
          state := st, incHi := hi, iter := it, port := t, rsp := some r, bytes := bs, script := rest,
          record := s.record ++ [{ rsp := some r, bytes := bs }], illegalSeen := mark } ∧
      (r.err = true ↔ decode t.cmd = none) ∧ (r.err = true → r.data = 0 ∧ bs = []) ∧
      (mark = true ↔ s.illegalSeen = true ∨ decode t.cmd = none)

/-- R21, R25: INC[0] reads 1 in every state; a write to INC stores every other bit and ignores bit 0; the W−1 stored bits
are exactly what INC can hold. -/
def Obligations.IncrementIsAlwaysOdd : Prop :=
  ∀ s : State,
    s.inc.getLsbD 0 = true ∧
    (∀ v : BitVec s.cfg.w, ({ s with incHi := incStore v } : State).inc = v ||| 1#_) ∧
    (∀ v : BitVec s.cfg.w, v.getLsbD 0 = true → ∃ hi, ({ s with incHi := hi } : State).inc = v) ∧
    (∀ hi : BitVec (s.cfg.w - 1), ({ s with incHi := hi } : State).inc = s.inc → hi = s.incHi)

/-- The invariant: in what the host has noted, an error response carries no data and no byte (R221), and a run in which an
IllegalCommand was reported is marked for good (U2, the model's mark: notes/assumptions/4.md). Every step keeps it. -/
def Obligations.EveryStepKeepsTheRecordConsistent : Prop :=
  ∀ s t : State, s.Inv → step s = .next t → t.Inv

/-- The invariant holds at reset. -/
def Obligations.ResetRecordIsConsistent : Prop := State.reset.Inv

/-- R34, R35, R16: nothing the block does can show the iterator registers, the stale ports, or what came before: two states
with the same configuration, STATE, INC and host script give the same responses, bytes and registers in every further
step. -/
def Obligations.HiddenRegistersAreUnobservable : Prop :=
  ∀ s t : State, SameBlock s t →
    (∀ s', step s = .next s' → ∃ t', step t = .next t' ∧ SameBlockAndOutputs s' t') ∧
    ∀ k, ∃ s' t', runSteps (k + 1) s = .next s' ∧ runSteps (k + 1) t = .next t' ∧ SameBlockAndOutputs s' t'

/-- R38: the reset values, by formula in every configuration and as numbers at each width. -/
def Obligations.ResetValues : Prop :=
  (∀ cfg : Config,
    let c : BitVec cfg.w := (State.resetOf cfg).inc
    c = (cfg.fallbackStream <<< 1) ||| 1#_ ∧
    (State.resetOf cfg).state = advance cfg.mult (cfg.fallbackSeed + c) c) ∧
  (∀ (v : Variant) (tap : OutTap),
    (State.resetOf (standardConfig v tap)).inc.toNat = 0x6D ∧
    (State.resetOf (standardConfig v tap)).state.toNat =
      if v.stateWidth = 32 then 0x4A649C30
      else if v.stateWidth = 64 then 0x185706B82C2E03F8
      else 0xDE2BCE05BE013BE3D3F6C45A41E54320) ∧
  State.reset.state.toNat = 0x185706B82C2E03F8 ∧ State.reset.inc.toNat = 0x6D ∧
  State.reset.rsp = none ∧ State.reset.bytes = []

/-- R250, R251, R253: RST between commands, or while a command executes, leaves the registers at their reset values whatever
went before, with no response; bytes of an abandoned FILL that the host had taken are a first part of that FILL's bytes.
The model's choices, not the spec's: RST leaves the host's script and record, the ports sampled and the mark as they were
(notes/assumptions/17.md), an abandoned word is noted without a response (9.md, 16.md), an abandoned reserved word sets the
mark (4.md). The iterator's value after RST is the model's choice too (6.md) and is not stated. -/
def Obligations.ResetEventLoadsTheResetValues : Prop :=
  ∀ (s : State) (rest : List (HostEvent s.cfg.w)),
    (s.script = .rst :: rest → ∃ it,
      step s = .next
        { s with
          state := (State.resetOf s.cfg).state, incHi := (State.resetOf s.cfg).incHi, iter := it,
          rsp := none, bytes := [], script := rest }) ∧
    (∀ (t : Transaction s.cfg.w) (taken : Nat), s.script = .rstDuring t taken :: rest → ∃ it bs mark,
      step s = .next
        { s with
          state := (State.resetOf s.cfg).state, incHi := (State.resetOf s.cfg).incHi, iter := it, port := t,
          rsp := none, bytes := bs, script := rest, record := s.record ++ [{ rsp := none, bytes := bs }],
          illegalSeen := mark } ∧
      (decode t.cmd ≠ some .fill → bs = []) ∧
      (decode t.cmd = some .fill → ∃ u, exec .fill { s with port := t, bytes := [] } = .next u ∧ bs = u.bytes.take taken) ∧
      (mark = true ↔ s.illegalSeen = true ∨ decode t.cmd = none))

/-- R233: with nothing presented the block is idle and holds every register. -/
def Obligations.IdleBlockHoldsItsRegisters : Prop :=
  ∀ s : State, s.script = [] → step s = .next { s with rsp := none, bytes := [] }

/-- R63, R231: a step of one instance leaves every other as it was, and under any interleaving each instance is where its
own steps alone would have brought it. -/
def Obligations.InstancesAreIndependent : Prop :=
  (∀ (b b' : Instances) (n m : Nat), n ≠ m → stepInstance n b = .next b' → b'[m]? = b[m]?) ∧
  ∀ (order : List Nat) (b : Instances), ∃ b', runSchedule order b = .next b' ∧ b'.length = b.length ∧
    ∀ (n : Nat) (s : State), b[n]? = some s → ∃ t, runSteps (order.count n) s = .next t ∧ b'[n]? = some t

/-- R10, U16: the seven admitted triples, and a triple outside the table names no configuration. -/
def Obligations.OnlySevenConfigurations : Prop :=
  (Variant.all.map fun v => (v.stateWidth, v.outWidth, v.perm)) =
    [(64, 32, .xshRr), (128, 64, .xshRr), (32, 16, .xshRr), (64, 32, .xshRs), (64, 64, .rxsMXs), (32, 32, .rxsMXs),
      (128, 64, .xslRr)] ∧
  (∀ v, v ∈ Variant.all) ∧
  (∀ (w o : Nat) (p : PermKind) (v : Variant),
    Variant.ofTriple w o p = some v ↔ v.stateWidth = w ∧ v.outWidth = o ∧ v.perm = p) ∧
  (∀ cfg : Config, cfg.rw = max cfg.w (2 * cfg.o)) ∧
  defaultConfig.variant = .cfg64x32XshRr ∧ defaultConfig.outTap = .new

/-- R7, R9: the default MULT of each width, odd and congruent to 5 modulo 8, and the default seed constants. -/
def Obligations.DefaultParameterValues : Prop :=
  ∀ (v : Variant) (tap : OutTap),
    (standardConfig v tap).mult.toNat =
      (if v.stateWidth = 32 then 747796405
       else if v.stateWidth = 64 then 6364136223846793005
       else 47026247687942121848144207491837523525) ∧
    (standardConfig v tap).mult.toNat % 2 = 1 ∧ (standardConfig v tap).mult.toNat % 8 = 5 ∧
    (standardConfig v tap).fallbackSeed.toNat = 42 ∧ (standardConfig v tap).fallbackStream.toNat = 54 ∧
    (standardConfig v tap).defaultStream.toNat = 54
end

