-- ==== Sys2Proof/Laws/Engine.lean ====
section
/-! SUPPORT. Small lemmas of the state engine, the iterator and the storage of INC. -/

namespace Sys2Proof.Machine

variable {w : Nat}

@[simp] theorem advanceBy_zero (m c s : BitVec w) : advanceBy m c 0 s = s := rfl

theorem advanceBy_succ (m c s : BitVec w) (k : Nat) :
    advanceBy m c (k + 1) s = advanceBy m c k (advance m s c) := rfl

@[simp] theorem advanceBy_one (m c s : BitVec w) : advanceBy m c 1 s = advance m s c := rfl

/-- Steps compose: `j` and then `k` are `j + k`. -/
theorem advanceBy_add (m c s : BitVec w) (j k : Nat) :
    advanceBy m c (j + k) s = advanceBy m c k (advanceBy m c j s) := by
  induction j generalizing s with
  | zero => simp
  | succ j ih => rw [Nat.succ_add, advanceBy_succ, advanceBy_succ, ih]

/-- The last step can be taken out instead of the first. -/
theorem advanceBy_succ_last (m c s : BitVec w) (k : Nat) :
    advanceBy m c (k + 1) s = advance m (advanceBy m c k s) c := by
  rw [advanceBy_add, advanceBy_one]

@[simp] theorem multPower_zero (m : BitVec w) : multPower m 0 = 1 := rfl

theorem multPower_succ (m : BitVec w) (k : Nat) : multPower m (k + 1) = multPower m k * m := rfl

@[simp] theorem geomSum_zero (m : BitVec w) : geomSum m 0 = 0 := rfl

theorem geomSum_succ (m : BitVec w) (k : Nat) : geomSum m (k + 1) = geomSum m k + multPower m k := rfl

/-- The loop is over when DELTA is 0, whatever the fuel. -/
theorem iteratorLoop_of_delta_zero (fuel : Nat) (r : Iterator w) (h : r.delta = 0) : iteratorLoop fuel r = r := by
  cases fuel with
  | zero => rfl
  | succ fuel => simp [iteratorLoop, h]

/-- One turn of the loop when DELTA is not 0. -/
theorem iteratorLoop_of_delta_ne (fuel : Nat) (r : Iterator w) (h : r.delta ≠ 0) :
    iteratorLoop (fuel + 1) r = iteratorLoop fuel (iteratorPass r) := if_neg h

@[simp] theorem iteratorPass_delta (r : Iterator w) : (iteratorPass r).delta = r.delta >>> 1 := rfl

/-- Bit `j` of what INC reads: 1 at the bottom, the stored bit `j − 1` above it. -/
theorem incRead_getLsbD (hi : BitVec (w - 1)) (j : Nat) (h : j < w) :
    (incRead hi : BitVec w).getLsbD j = if j = 0 then true else hi.getLsbD (j - 1) := by
  rcases j with _ | j
  · simp [incRead, h]
  · have h1 : j < w - 1 := by omega
    simp [incRead, h, h1]

/-- Bit `j` of what INC stores is bit `j + 1` of the value written. -/
theorem incStore_getLsbD (v : BitVec w) (j : Nat) (h : j < w - 1) : (incStore v).getLsbD j = v.getLsbD (j + 1) := by
  simp [incStore, h, Nat.add_comm]

/-- Reading INC and writing the value back stores the same bits. -/
theorem incStore_incRead (hi : BitVec (w - 1)) : incStore (incRead hi : BitVec w) = hi := by
  apply BitVec.eq_of_getLsbD_eq
  intro j h
  rw [incStore_getLsbD _ _ h, incRead_getLsbD _ _ (by omega)]
  simp

end Sys2Proof.Machine
end

