-- ==== Sys2Proof/Laws/State.lean ====
section
/-! SUPPORT. One lemma per field per named update of State, true by unfolding, for simp. -/

namespace Sys2Proof.Machine

@[simp] theorem State.setState_cfg (s : State) (v : BitVec s.cfg.w) : (s.setState v).cfg = s.cfg := rfl
@[simp] theorem State.setState_state (s : State) (v : BitVec s.cfg.w) : (s.setState v).state = v := rfl
@[simp] theorem State.setState_incHi (s : State) (v : BitVec s.cfg.w) : (s.setState v).incHi = s.incHi := rfl
@[simp] theorem State.setState_iter (s : State) (v : BitVec s.cfg.w) : (s.setState v).iter = s.iter := rfl
@[simp] theorem State.setState_port (s : State) (v : BitVec s.cfg.w) : (s.setState v).port = s.port := rfl
@[simp] theorem State.setState_rsp (s : State) (v : BitVec s.cfg.w) : (s.setState v).rsp = s.rsp := rfl
@[simp] theorem State.setState_bytes (s : State) (v : BitVec s.cfg.w) : (s.setState v).bytes = s.bytes := rfl
@[simp] theorem State.setState_script (s : State) (v : BitVec s.cfg.w) : (s.setState v).script = s.script := rfl
@[simp] theorem State.setState_record (s : State) (v : BitVec s.cfg.w) : (s.setState v).record = s.record := rfl
@[simp] theorem State.setState_illegalSeen (s : State) (v : BitVec s.cfg.w) :
    (s.setState v).illegalSeen =
      s.illegalSeen := rfl

@[simp] theorem State.setInc_cfg (s : State) (v : BitVec s.cfg.w) : (s.setInc v).cfg = s.cfg := rfl
@[simp] theorem State.setInc_state (s : State) (v : BitVec s.cfg.w) : (s.setInc v).state = s.state := rfl
@[simp] theorem State.setInc_incHi (s : State) (v : BitVec s.cfg.w) : (s.setInc v).incHi = incStore v := rfl
@[simp] theorem State.setInc_iter (s : State) (v : BitVec s.cfg.w) : (s.setInc v).iter = s.iter := rfl
@[simp] theorem State.setInc_port (s : State) (v : BitVec s.cfg.w) : (s.setInc v).port = s.port := rfl
@[simp] theorem State.setInc_rsp (s : State) (v : BitVec s.cfg.w) : (s.setInc v).rsp = s.rsp := rfl
@[simp] theorem State.setInc_bytes (s : State) (v : BitVec s.cfg.w) : (s.setInc v).bytes = s.bytes := rfl
@[simp] theorem State.setInc_script (s : State) (v : BitVec s.cfg.w) : (s.setInc v).script = s.script := rfl
@[simp] theorem State.setInc_record (s : State) (v : BitVec s.cfg.w) : (s.setInc v).record = s.record := rfl
@[simp] theorem State.setInc_illegalSeen (s : State) (v : BitVec s.cfg.w) :
    (s.setInc v).illegalSeen =
      s.illegalSeen := rfl

@[simp] theorem State.load_cfg (s : State) (v c : BitVec s.cfg.w) : (s.load v c).cfg = s.cfg := rfl
@[simp] theorem State.load_state (s : State) (v c : BitVec s.cfg.w) : (s.load v c).state = v := rfl
@[simp] theorem State.load_incHi (s : State) (v c : BitVec s.cfg.w) : (s.load v c).incHi = incStore c := rfl
@[simp] theorem State.load_iter (s : State) (v c : BitVec s.cfg.w) : (s.load v c).iter = s.iter := rfl
@[simp] theorem State.load_port (s : State) (v c : BitVec s.cfg.w) : (s.load v c).port = s.port := rfl
@[simp] theorem State.load_rsp (s : State) (v c : BitVec s.cfg.w) : (s.load v c).rsp = s.rsp := rfl
@[simp] theorem State.load_bytes (s : State) (v c : BitVec s.cfg.w) : (s.load v c).bytes = s.bytes := rfl
@[simp] theorem State.load_script (s : State) (v c : BitVec s.cfg.w) : (s.load v c).script = s.script := rfl
@[simp] theorem State.load_record (s : State) (v c : BitVec s.cfg.w) : (s.load v c).record = s.record := rfl
@[simp] theorem State.load_illegalSeen (s : State) (v c : BitVec s.cfg.w) :
    (s.load v c).illegalSeen =
      s.illegalSeen := rfl

@[simp] theorem State.setIter_cfg (s : State) (it : Iterator s.cfg.w) : (s.setIter it).cfg = s.cfg := rfl
@[simp] theorem State.setIter_state (s : State) (it : Iterator s.cfg.w) : (s.setIter it).state = s.state := rfl
@[simp] theorem State.setIter_incHi (s : State) (it : Iterator s.cfg.w) : (s.setIter it).incHi = s.incHi := rfl
@[simp] theorem State.setIter_iter (s : State) (it : Iterator s.cfg.w) : (s.setIter it).iter = it := rfl
@[simp] theorem State.setIter_port (s : State) (it : Iterator s.cfg.w) : (s.setIter it).port = s.port := rfl
@[simp] theorem State.setIter_rsp (s : State) (it : Iterator s.cfg.w) : (s.setIter it).rsp = s.rsp := rfl
@[simp] theorem State.setIter_bytes (s : State) (it : Iterator s.cfg.w) : (s.setIter it).bytes = s.bytes := rfl
@[simp] theorem State.setIter_script (s : State) (it : Iterator s.cfg.w) : (s.setIter it).script = s.script := rfl
@[simp] theorem State.setIter_record (s : State) (it : Iterator s.cfg.w) : (s.setIter it).record = s.record := rfl
@[simp] theorem State.setIter_illegalSeen (s : State) (it : Iterator s.cfg.w) :
    (s.setIter it).illegalSeen =
      s.illegalSeen := rfl

@[simp] theorem State.respond_cfg (s : State) {n : Nat} (v : BitVec n) : (s.respond v).cfg = s.cfg := rfl
@[simp] theorem State.respond_state (s : State) {n : Nat} (v : BitVec n) : (s.respond v).state = s.state := rfl
@[simp] theorem State.respond_incHi (s : State) {n : Nat} (v : BitVec n) : (s.respond v).incHi = s.incHi := rfl
@[simp] theorem State.respond_iter (s : State) {n : Nat} (v : BitVec n) : (s.respond v).iter = s.iter := rfl
@[simp] theorem State.respond_port (s : State) {n : Nat} (v : BitVec n) : (s.respond v).port = s.port := rfl
@[simp] theorem State.respond_rsp (s : State) {n : Nat} (v : BitVec n) :
    (s.respond v).rsp =
      some (okResponse s.cfg.rw v) := rfl
@[simp] theorem State.respond_bytes (s : State) {n : Nat} (v : BitVec n) : (s.respond v).bytes = s.bytes := rfl
@[simp] theorem State.respond_script (s : State) {n : Nat} (v : BitVec n) : (s.respond v).script = s.script := rfl
@[simp] theorem State.respond_record (s : State) {n : Nat} (v : BitVec n) : (s.respond v).record = s.record := rfl
@[simp] theorem State.respond_illegalSeen (s : State) {n : Nat} (v : BitVec n) :
    (s.respond v).illegalSeen =
      s.illegalSeen := rfl

@[simp] theorem State.emitBytes_cfg (s : State) (bs : List Byte) : (s.emitBytes bs).cfg = s.cfg := rfl
@[simp] theorem State.emitBytes_state (s : State) (bs : List Byte) : (s.emitBytes bs).state = s.state := rfl
@[simp] theorem State.emitBytes_incHi (s : State) (bs : List Byte) : (s.emitBytes bs).incHi = s.incHi := rfl
@[simp] theorem State.emitBytes_iter (s : State) (bs : List Byte) : (s.emitBytes bs).iter = s.iter := rfl
@[simp] theorem State.emitBytes_port (s : State) (bs : List Byte) : (s.emitBytes bs).port = s.port := rfl
@[simp] theorem State.emitBytes_rsp (s : State) (bs : List Byte) : (s.emitBytes bs).rsp = s.rsp := rfl
@[simp] theorem State.emitBytes_bytes (s : State) (bs : List Byte) : (s.emitBytes bs).bytes = s.bytes ++ bs := rfl
@[simp] theorem State.emitBytes_script (s : State) (bs : List Byte) : (s.emitBytes bs).script = s.script := rfl
@[simp] theorem State.emitBytes_record (s : State) (bs : List Byte) : (s.emitBytes bs).record = s.record := rfl
@[simp] theorem State.emitBytes_illegalSeen (s : State) (bs : List Byte) :
    (s.emitBytes bs).illegalSeen =
      s.illegalSeen := rfl

@[simp] theorem State.seedFrom_cfg (s : State) (src : SeedSource) : (s.seedFrom src).cfg = s.cfg := rfl
@[simp] theorem State.seedFrom_state (s : State) (src : SeedSource) :
    (s.seedFrom src).state =
      (initPair s.cfg.mult (seedMux s.cfg s.port src).1 (seedMux s.cfg s.port src).2).1 := rfl
@[simp] theorem State.seedFrom_incHi (s : State) (src : SeedSource) :
    (s.seedFrom src).incHi =
      incStore (initPair s.cfg.mult (seedMux s.cfg s.port src).1 (seedMux s.cfg s.port src).2).2 := rfl
@[simp] theorem State.seedFrom_iter (s : State) (src : SeedSource) : (s.seedFrom src).iter = s.iter := rfl
@[simp] theorem State.seedFrom_port (s : State) (src : SeedSource) : (s.seedFrom src).port = s.port := rfl
@[simp] theorem State.seedFrom_rsp (s : State) (src : SeedSource) : (s.seedFrom src).rsp = s.rsp := rfl
@[simp] theorem State.seedFrom_bytes (s : State) (src : SeedSource) : (s.seedFrom src).bytes = s.bytes := rfl
@[simp] theorem State.seedFrom_script (s : State) (src : SeedSource) : (s.seedFrom src).script = s.script := rfl
@[simp] theorem State.seedFrom_record (s : State) (src : SeedSource) : (s.seedFrom src).record = s.record := rfl
@[simp] theorem State.seedFrom_illegalSeen (s : State) (src : SeedSource) :
    (s.seedFrom src).illegalSeen =
      s.illegalSeen := rfl

@[simp] theorem State.raiseIllegal_cfg (s : State) : (s.raiseIllegal).cfg = s.cfg := rfl
@[simp] theorem State.raiseIllegal_state (s : State) : (s.raiseIllegal).state = s.state := rfl
@[simp] theorem State.raiseIllegal_incHi (s : State) : (s.raiseIllegal).incHi = s.incHi := rfl
@[simp] theorem State.raiseIllegal_iter (s : State) : (s.raiseIllegal).iter = s.iter := rfl
@[simp] theorem State.raiseIllegal_port (s : State) : (s.raiseIllegal).port = s.port := rfl
@[simp] theorem State.raiseIllegal_rsp (s : State) : (s.raiseIllegal).rsp = some (illegalResponse s.cfg.rw) := rfl
@[simp] theorem State.raiseIllegal_bytes (s : State) : (s.raiseIllegal).bytes = s.bytes := rfl
@[simp] theorem State.raiseIllegal_script (s : State) : (s.raiseIllegal).script = s.script := rfl
@[simp] theorem State.raiseIllegal_record (s : State) : (s.raiseIllegal).record = s.record := rfl
@[simp] theorem State.raiseIllegal_illegalSeen (s : State) : (s.raiseIllegal).illegalSeen = true := rfl

@[simp] theorem State.resetAction_cfg (s : State) : (s.resetAction).cfg = s.cfg := rfl
@[simp] theorem State.resetAction_state (s : State) : (s.resetAction).state = (State.resetOf s.cfg).state := rfl
@[simp] theorem State.resetAction_incHi (s : State) : (s.resetAction).incHi = (State.resetOf s.cfg).incHi := rfl
@[simp] theorem State.resetAction_iter (s : State) : (s.resetAction).iter = Iterator.afterReset s.cfg.w := rfl
@[simp] theorem State.resetAction_port (s : State) : (s.resetAction).port = s.port := rfl
@[simp] theorem State.resetAction_rsp (s : State) : (s.resetAction).rsp = none := rfl
@[simp] theorem State.resetAction_bytes (s : State) : (s.resetAction).bytes = [] := rfl
@[simp] theorem State.resetAction_script (s : State) : (s.resetAction).script = s.script := rfl
@[simp] theorem State.resetAction_record (s : State) : (s.resetAction).record = s.record := rfl
@[simp] theorem State.resetAction_illegalSeen (s : State) : (s.resetAction).illegalSeen = s.illegalSeen := rfl

@[simp] theorem State.takeEvent_cfg (s : State) : (s.takeEvent).cfg = s.cfg := rfl
@[simp] theorem State.takeEvent_state (s : State) : (s.takeEvent).state = s.state := rfl
@[simp] theorem State.takeEvent_incHi (s : State) : (s.takeEvent).incHi = s.incHi := rfl
@[simp] theorem State.takeEvent_iter (s : State) : (s.takeEvent).iter = s.iter := rfl
@[simp] theorem State.takeEvent_port (s : State) : (s.takeEvent).port = s.port := rfl
@[simp] theorem State.takeEvent_rsp (s : State) : (s.takeEvent).rsp = none := rfl
@[simp] theorem State.takeEvent_bytes (s : State) : (s.takeEvent).bytes = [] := rfl
@[simp] theorem State.takeEvent_script (s : State) : (s.takeEvent).script = s.script.tail := rfl
@[simp] theorem State.takeEvent_record (s : State) : (s.takeEvent).record = s.record := rfl
@[simp] theorem State.takeEvent_illegalSeen (s : State) : (s.takeEvent).illegalSeen = s.illegalSeen := rfl

@[simp] theorem State.accept_cfg (s : State) (t : Transaction s.cfg.w) : (s.accept t).cfg = s.cfg := rfl
@[simp] theorem State.accept_state (s : State) (t : Transaction s.cfg.w) : (s.accept t).state = s.state := rfl
@[simp] theorem State.accept_incHi (s : State) (t : Transaction s.cfg.w) : (s.accept t).incHi = s.incHi := rfl
@[simp] theorem State.accept_iter (s : State) (t : Transaction s.cfg.w) : (s.accept t).iter = s.iter := rfl
@[simp] theorem State.accept_port (s : State) (t : Transaction s.cfg.w) : (s.accept t).port = t := rfl
@[simp] theorem State.accept_rsp (s : State) (t : Transaction s.cfg.w) : (s.accept t).rsp = none := rfl
@[simp] theorem State.accept_bytes (s : State) (t : Transaction s.cfg.w) : (s.accept t).bytes = [] := rfl
@[simp] theorem State.accept_script (s : State) (t : Transaction s.cfg.w) : (s.accept t).script = s.script.tail := rfl
@[simp] theorem State.accept_record (s : State) (t : Transaction s.cfg.w) : (s.accept t).record = s.record := rfl
@[simp] theorem State.accept_illegalSeen (s : State) (t : Transaction s.cfg.w) :
    (s.accept t).illegalSeen =
      s.illegalSeen := rfl

@[simp] theorem State.idle_cfg (s : State) : (s.idle).cfg = s.cfg := rfl
@[simp] theorem State.idle_state (s : State) : (s.idle).state = s.state := rfl
@[simp] theorem State.idle_incHi (s : State) : (s.idle).incHi = s.incHi := rfl
@[simp] theorem State.idle_iter (s : State) : (s.idle).iter = s.iter := rfl
@[simp] theorem State.idle_port (s : State) : (s.idle).port = s.port := rfl
@[simp] theorem State.idle_rsp (s : State) : (s.idle).rsp = none := rfl
@[simp] theorem State.idle_bytes (s : State) : (s.idle).bytes = [] := rfl
@[simp] theorem State.idle_script (s : State) : (s.idle).script = s.script := rfl
@[simp] theorem State.idle_record (s : State) : (s.idle).record = s.record := rfl
@[simp] theorem State.idle_illegalSeen (s : State) : (s.idle).illegalSeen = s.illegalSeen := rfl

@[simp] theorem State.note_cfg (s : State) : (s.note).cfg = s.cfg := rfl
@[simp] theorem State.note_state (s : State) : (s.note).state = s.state := rfl
@[simp] theorem State.note_incHi (s : State) : (s.note).incHi = s.incHi := rfl
@[simp] theorem State.note_iter (s : State) : (s.note).iter = s.iter := rfl
@[simp] theorem State.note_port (s : State) : (s.note).port = s.port := rfl
@[simp] theorem State.note_rsp (s : State) : (s.note).rsp = s.rsp := rfl
@[simp] theorem State.note_bytes (s : State) : (s.note).bytes = s.bytes := rfl
@[simp] theorem State.note_script (s : State) : (s.note).script = s.script := rfl
@[simp] theorem State.note_record (s : State) :
    (s.note).record =
      s.record ++ [{ rsp := s.rsp, bytes := s.bytes }] := rfl
@[simp] theorem State.note_illegalSeen (s : State) : (s.note).illegalSeen = s.illegalSeen := rfl

@[simp] theorem State.respondNothing_eq (s : State) : s.respondNothing = s.respond (0 : BitVec 1) := rfl

end Sys2Proof.Machine
end

