-- ==== Sys2Proof/Laws/Ops.lean ====
section
/-! SUPPORT. What the shared operations give: responses, words, the bytes of a fill, the seed multiplexer. -/

namespace Sys2Proof.Machine

@[simp] theorem okResponse_err (rw : Nat) {n : Nat} (v : BitVec n) : (okResponse rw v).err = false := rfl

@[simp] theorem okResponse_data (rw : Nat) {n : Nat} (v : BitVec n) : (okResponse rw v).data = v.setWidth rw := rfl

/-- A command without a result answers 0. -/
@[simp] theorem okResponse_nothing (rw : Nat) : okResponse rw 0#1 = { err := false, data := 0#rw } := by
  simp [okResponse]

@[simp] theorem illegalResponse_err (rw : Nat) : (illegalResponse rw).err = true := rfl

@[simp] theorem illegalResponse_data (rw : Nat) : (illegalResponse rw).data = 0 := rfl

/-- `next_word` advances STATE once, whatever the tap (R160, R161). -/
@[simp] theorem nextWord_state (cfg : Config) (c st : BitVec cfg.w) : (nextWord cfg c st).2 = advance cfg.mult st c := by
  unfold nextWord
  split <;> rfl

/-- The word of `next_word` under OUT_TAP = NEW. -/
theorem nextWord_word_new (cfg : Config) (c st : BitVec cfg.w) (h : cfg.outTap = .new) :
    (nextWord cfg c st).1 = permute cfg (advance cfg.mult st c) := by
  simp [nextWord, h]

/-- The word of `next_word` under OUT_TAP = OLD. -/
theorem nextWord_word_old (cfg : Config) (c st : BitVec cfg.w) (h : cfg.outTap = .old) :
    (nextWord cfg c st).1 = permute cfg st := by
  simp [nextWord, h]

/-- Every admitted output width is a whole number of bytes, at least two. -/
theorem bytesPerWord_pos (cfg : Config) : 0 < bytesPerWord cfg := by
  unfold bytesPerWord Config.o
  cases cfg.variant <;> decide

@[simp] theorem wordBytes_length {o : Nat} (w : BitVec o) : (wordBytes w).length = o / 8 := by
  simp [wordBytes]

/-- Byte `j` of a word is bits `8j+7..8j` (R53). -/
theorem wordBytes_getElem? {o : Nat} (w : BitVec o) (j : Nat) (h : j < o / 8) :
    (wordBytes w)[j]? = some (w.extractLsb' (8 * j) 8) := by
  simp [wordBytes, h]

/-- `q` whole words advance STATE `q` times. -/
theorem fillWords_state (cfg : Config) (c : BitVec cfg.w) (q : Nat) (st : BitVec cfg.w) :
    (fillWords cfg c q st).2 = advanceBy cfg.mult c q st := by
  induction q generalizing st with
  | zero => rfl
  | succ q ih => simp [fillWords, ih, advanceBy_succ]

/-- `q` whole words emit `q · BPW` bytes. -/
theorem fillWords_length (cfg : Config) (c : BitVec cfg.w) (q : Nat) (st : BitVec cfg.w) :
    (fillWords cfg c q st).1.length = q * bytesPerWord cfg := by
  induction q generalizing st with
  | zero => simp [fillWords]
  | succ q ih => simp [fillWords, ih, bytesPerWord, Nat.succ_mul, Nat.add_comm]

/-- A fill of a multiple of BPW bytes is whole words only. -/
theorem fillRun_whole (cfg : Config) (c : BitVec cfg.w) (n : Nat) (st : BitVec cfg.w) (h : n % bytesPerWord cfg = 0) :
    fillRun cfg c n st = fillWords cfg c (n / bytesPerWord cfg) st := by
  simp [fillRun, h]

/-- A fill of any other number of bytes takes one word more and cuts it (R164). -/
theorem fillRun_cut (cfg : Config) (c : BitVec cfg.w) (n : Nat) (st : BitVec cfg.w) (h : n % bytesPerWord cfg ≠ 0) :
    fillRun cfg c n st =
      ((fillWords cfg c (n / bytesPerWord cfg) st).1 ++
          (wordBytes (nextWord cfg c (fillWords cfg c (n / bytesPerWord cfg) st).2).1).take (n % bytesPerWord cfg),
        (nextWord cfg c (fillWords cfg c (n / bytesPerWord cfg) st).2).2) := by
  simp [fillRun, h]

@[simp] theorem seedMux_explicit (cfg : Config) (t : Transaction cfg.w) : seedMux cfg t .explicit = (t.opa, t.opb) := rfl

@[simp] theorem seedMux_seedOnly (cfg : Config) (t : Transaction cfg.w) :
    seedMux cfg t .seedOnly = (t.opa, cfg.defaultStream) := rfl

@[simp] theorem seedMux_reset (cfg : Config) (t : Transaction cfg.w) :
    seedMux cfg t .reset = (cfg.fallbackSeed, cfg.fallbackStream) := rfl

/-- Position D with an entropy source attached. -/
theorem seedMux_defaulted_avail (cfg : Config) (t : Transaction cfg.w) (h : t.ent.avail = true) :
    seedMux cfg t .defaulted = (t.ent.seed, t.ent.stream) := by
  simp [seedMux, h]

/-- Position D without one is the reset position. -/
theorem seedMux_defaulted_unavail (cfg : Config) (t : Transaction cfg.w) (h : t.ent.avail = false) :
    seedMux cfg t .defaulted = seedMux cfg t .reset := by
  simp [seedMux, h]

/-- What is in the record once a transaction has been noted. -/
theorem mem_note_record (s : State) (e : Exchange s.cfg.rw) :
    e ∈ s.note.record ↔ e ∈ s.record ∨ e = { rsp := s.rsp, bytes := s.bytes } := by
  change e ∈ s.record ++ [{ rsp := s.rsp, bytes := s.bytes }] ↔ _
  simp

/-- A check over the noted record is the check over the earlier ones or of the last. -/
theorem any_note_record (s : State) (f : Exchange s.cfg.rw → Bool) :
    s.note.record.any f = (s.record.any f || f (Exchange.mk s.rsp s.bytes)) := by
  change (s.record ++ [Exchange.mk s.rsp s.bytes]).any f = _
  simp

/-- Only a FILL offers bytes. -/
theorem bytesOffered_of_not_fill (s : State) (h : decode s.port.cmd ≠ some .fill) : bytesOffered s = [] := by
  unfold bytesOffered
  split <;> simp_all

end Sys2Proof.Machine
end

