-- ==== Sys2Proof/Laws/Exec.lean ====
section
/-! SUPPORT. What `exec` answers for each command, and all that one step can do. -/

namespace Sys2Proof.Machine

@[simp] theorem exec_initX (s : State) : exec .initX s = .next (s.seedFrom .explicit).respondNothing := rfl

@[simp] theorem exec_initS (s : State) : exec .initS s = .next (s.seedFrom .seedOnly).respondNothing := rfl

@[simp] theorem exec_initD (s : State) : exec .initD s = .next (s.seedFrom .defaulted).respondNothing := rfl

theorem exec_next (s : State) :
    exec .next s = .next ((s.setState (nextWord s.cfg s.inc s.state).2).respond (nextWord s.cfg s.inc s.state).1) := rfl

theorem exec_next2 (s : State) :
    exec .next2 s =
      .next ((s.setState (nextWord s.cfg s.inc (nextWord s.cfg s.inc s.state).2).2).respond
        ((nextWord s.cfg s.inc (nextWord s.cfg s.inc s.state).2).1 ++ (nextWord s.cfg s.inc s.state).1)) := rfl

theorem exec_jump (s : State) :
    exec .jump s =
      .next ((s.setState (iteratorResult (iteratorRun s.cfg.mult s.inc s.port.opa) s.state)).setIter
        (iteratorRun s.cfg.mult s.inc s.port.opa)).respondNothing := rfl

theorem exec_fill (s : State) :
    exec .fill s =
      .next ((s.setState (fillRun s.cfg s.inc s.port.opa.toNat s.state).2).emitBytes
        (fillRun s.cfg s.inc s.port.opa.toNat s.state).1).respondNothing := rfl

@[simp] theorem exec_peek (s : State) : exec .peek s = .next (s.respond (permute s.cfg s.state)) := rfl

@[simp] theorem exec_rdstate (s : State) : exec .rdstate s = .next (s.respond s.state) := rfl

@[simp] theorem exec_rdinc (s : State) : exec .rdinc s = .next (s.respond s.inc) := rfl

@[simp] theorem exec_restore (s : State) :
    exec .restore s = .next (s.load s.port.opa s.port.opb).respondNothing := rfl

/-- With no event the step idles. -/
theorem step_idle (s : State) (h : s.script = []) : step s = .next s.idle := by
  simp [step, h]

/-- A step on an event is that event's run. -/
theorem step_event (s : State) (e : HostEvent s.cfg.w) (rest : List (HostEvent s.cfg.w)) (h : s.script = e :: rest) :
    step s = runEvent s e := by
  simp [step, h]

/-- An accepted word that decodes is executed and noted. -/
theorem runAccepted_legal (s : State) (i : Instr) (h : decode s.port.cmd = some i) :
    runAccepted s = noteResult (exec i s) := by
  simp [runAccepted, h]

/-- An accepted word that is reserved raises IllegalCommand and is noted. -/
theorem runAccepted_reserved (s : State) (h : decode s.port.cmd = none) : runAccepted s = .next s.raiseIllegal.note := by
  simp [runAccepted, h]

/-- All that one step can do: idle, run a legal word, refuse a reserved one, reset, or reset during a command. -/
theorem step_cases {s t : State} (h : step s = .next t) :
    (s.script = [] ∧ t = s.idle) ∨
    (∃ tr rest i u, s.script = .command tr :: rest ∧ decode tr.cmd = some i ∧ exec i (s.accept tr) = .next u ∧
      t = u.note) ∨
    (∃ tr rest, s.script = .command tr :: rest ∧ decode tr.cmd = none ∧ t = (s.accept tr).raiseIllegal.note) ∨
    (∃ rest, s.script = .rst :: rest ∧ t = s.takeEvent.resetAction) ∨
    (∃ tr taken rest, s.script = .rstDuring tr taken :: rest ∧ t = ((s.accept tr).abandon taken).note) := by
  have inj : ∀ {a b : State}, (Host.Outcome.next a : Result) = .next b → b = a := fun h => by injection h with h; exact h.symm
  rcases hs : s.script with _ | ⟨e, rest⟩
  · rw [step_idle s hs] at h
    exact .inl ⟨rfl, inj h⟩
  · rw [step_event s e rest hs] at h
    cases e with
    | command tr =>
      simp only [runEvent] at h
      rcases hd : decode tr.cmd with _ | i
      · rw [runAccepted_reserved (s.accept tr) hd] at h
        exact .inr (.inr (.inl ⟨tr, rest, rfl, hd, inj h⟩))
      · rw [runAccepted_legal (s.accept tr) i hd] at h
        rcases hx : exec i (s.accept tr) with u | r | r
        · rw [hx] at h
          exact .inr (.inl ⟨tr, rest, i, u, rfl, hd, hx, inj h⟩)
        · cases r
        · rw [hx] at h; exact absurd h (by simp [noteResult])
    | rst => exact .inr (.inr (.inr (.inl ⟨rest, rfl, inj h⟩)))
    | rstDuring tr taken => exact .inr (.inr (.inr (.inr ⟨tr, taken, rest, rfl, inj h⟩)))

end Sys2Proof.Machine
end

