-- ==== Sys2Proof/Laws/PerInstr.lean ====
section
/-! SUPPORT. Laws about a command as syntax, one lemma per constructor. `EncodeDecode`: the word of a command has its
reserved field 00 and its fields where the map puts them, and decodes to the command (30_encoding.md R71, R74). -/

namespace Sys2Proof.Laws.EncodeDecode

/-- What is stated of each command. -/
def Statement (i : Instr) : Prop :=
  i.wellFormed = true ∧ fieldRsv (encode i) = 0 ∧ fieldSrc (encode i) = encodeSrc i ∧
    fieldOpc (encode i) = encodeOpc i ∧ decode (encode i) = some i

theorem initX : Statement .initX := by unfold Statement; decide

theorem initS : Statement .initS := by unfold Statement; decide

theorem initD : Statement .initD := by unfold Statement; decide

theorem next : Statement .next := by unfold Statement; decide

theorem next2 : Statement .next2 := by unfold Statement; decide

theorem jump : Statement .jump := by unfold Statement; decide

theorem fill : Statement .fill := by unfold Statement; decide

theorem peek : Statement .peek := by unfold Statement; decide

theorem rdstate : Statement .rdstate := by unfold Statement; decide

theorem rdinc : Statement .rdinc := by unfold Statement; decide

theorem restore : Statement .restore := by unfold Statement; decide

end Sys2Proof.Laws.EncodeDecode
end

