-- ==== Sys2Proof/Laws/Permute.lean ====
section
/-! SUPPORT. What a formula evaluates to, constructor by constructor and for each stated formula, and
which parameter `permute` reads. -/

namespace Sys2Proof.Machine

variable {w : Nat} (s : BitVec w)

@[simp] theorem evalFormula_state : evalFormula s .state = s := rfl

@[simp] theorem evalFormula_lit (n : Nat) : evalFormula s (.lit n) = BitVec.ofNat w n := rfl

@[simp] theorem evalFormula_add (a b : Formula) : evalFormula s (.add a b) = evalFormula s a + evalFormula s b := rfl

@[simp] theorem evalFormula_mul (a b : Formula) : evalFormula s (.mul a b) = evalFormula s a * evalFormula s b := rfl

@[simp] theorem evalFormula_xor (a b : Formula) : evalFormula s (.xor a b) = evalFormula s a ^^^ evalFormula s b := rfl

@[simp] theorem evalFormula_shr (a b : Formula) :
    evalFormula s (.shr a b) = evalFormula s a >>> (evalFormula s b).toNat := rfl

@[simp] theorem evalFormula_rotr (n : Nat) (a r : Formula) :
    evalFormula s (.rotr n a r) =
      (((evalFormula s a).setWidth n).rotateRight (evalFormula s r).toNat).setWidth w := rfl

theorem evalFormula_ifEq_of_eq {a b : Formula} (t e : Formula) (h : evalFormula s a = evalFormula s b) :
    evalFormula s (.ifEq a b t e) = evalFormula s t := if_pos h

theorem evalFormula_ifEq_of_ne {a b : Formula} (t e : Formula) (h : evalFormula s a ≠ evalFormula s b) :
    evalFormula s (.ifEq a b t e) = evalFormula s e := if_neg h

@[simp] theorem evalFormula_xorshift (a n : Formula) :
    evalFormula s (xorshiftFormula a n) =
      evalFormula s a >>> (evalFormula s n).toNat ^^^ evalFormula s a := rfl

/-- The top bits of a state plus a small constant, as a shift amount, do not wrap. -/
theorem toNat_shift_add {n k : Nat} (hk : k < 2 ^ w) (h : 2 ^ (w - n) + k ≤ 2 ^ w) (hn : n ≤ w) :
    (s >>> n + BitVec.ofNat w k).toNat = (s >>> n).toNat + k := by
  have hlt : (s >>> n).toNat < 2 ^ (w - n) := by
    rw [BitVec.toNat_ushiftRight, Nat.shiftRight_eq_div_pow]
    exact Nat.div_lt_of_lt_mul (by rw [← pow_add, Nat.add_sub_cancel' hn]; exact s.isLt)
  rw [BitVec.toNat_add, BitVec.toNat_ofNat, Nat.mod_eq_of_lt hk]
  exact Nat.mod_eq_of_lt (by omega)

/-- R138. -/
theorem evalFormula_xshRs (x : BitVec 64) :
    evalFormula x xshRsFormula = ((x >>> 22) ^^^ x) >>> (22 + (x >>> 61).toNat) := by
  have h : (BitVec.ofNat 64 22 + x >>> 61).toNat = 22 + (x >>> 61).toNat := by
    rw [BitVec.add_comm, toNat_shift_add x (by decide) (by decide) (by decide), Nat.add_comm]
  show ((x >>> 22) ^^^ x) >>> (BitVec.ofNat 64 22 + x >>> 61).toNat = _
  rw [h]

/-- R139, W = 64. -/
theorem evalFormula_rxsMXs64 (x : BitVec 64) :
    evalFormula x (rxsMXsFormula 59 5 12605985483714917081 43) =
      let v := ((x >>> ((x >>> 59).toNat + 5)) ^^^ x) * 12605985483714917081#64
      (v >>> 43) ^^^ v := by
  have h := toNat_shift_add x (n := 59) (k := 5) (by decide) (by decide) (by decide)
  show ((x >>> (x >>> 59 + BitVec.ofNat 64 5).toNat ^^^ x) * 12605985483714917081#64) >>> 43 ^^^
    (x >>> (x >>> 59 + BitVec.ofNat 64 5).toNat ^^^ x) * 12605985483714917081#64 = _
  rw [h]

/-- R139, W = 32. -/
theorem evalFormula_rxsMXs32 (x : BitVec 32) :
    evalFormula x (rxsMXsFormula 28 4 277803737 22) =
      let v := ((x >>> ((x >>> 28).toNat + 4)) ^^^ x) * 277803737#32
      (v >>> 22) ^^^ v := by
  have h := toNat_shift_add x (n := 28) (k := 4) (by decide) (by decide) (by decide)
  show ((x >>> (x >>> 28 + BitVec.ofNat 32 4).toNat ^^^ x) * 277803737#32) >>> 22 ^^^
    (x >>> (x >>> 28 + BitVec.ofNat 32 4).toNat ^^^ x) * 277803737#32 = _
  rw [h]

/-- R140. -/
theorem evalFormula_xslRr (x : BitVec 128) :
    evalFormula x xslRrFormula =
      ((((x >>> 64) ^^^ x).setWidth 64).rotateRight (x >>> 122).toNat).setWidth 128 := rfl

/-- XSH_RR reads its constants alone (R134). -/
theorem permute_of_xshRr (cfg : Config) (h : cfg.variant.perm = .xshRr) (x : BitVec cfg.w) :
    permute cfg x = permuteXshRr cfg.xshRr cfg.o x := by
  simp only [permute, h]

/-- Every other PERM reads the carried function alone (R141). -/
theorem permute_of_optional (cfg : Config) (h : cfg.variant.perm ≠ .xshRr) (x : BitVec cfg.w) :
    permute cfg x = permuteFormula cfg.optionalPermute cfg.o x := by
  cases hp : cfg.variant.perm <;> simp_all [permute]

end Sys2Proof.Machine
end

