-- ==== Sys2Proof/Laws/Run.lean ====
section
/-! SUPPORT. Runs, one step at a time; every command and every step answers a next state; when two states hold the same
generator. -/

namespace Sys2Proof.Machine

/-- Every command answers a next state, with a response that is no error (R220). -/
theorem exec_answers (i : Instr) (s : State) : ∃ t, exec i s = .next t := by
  cases i <;> exact ⟨_, rfl⟩

/-- Every step answers a next state. -/
theorem step_answers (s : State) : ∃ t, step s = .next t := by
  rcases hs : s.script with _ | ⟨e, rest⟩
  · exact ⟨_, step_idle s hs⟩
  · rw [step_event s e rest hs]
    cases e with
    | rst => exact ⟨_, rfl⟩
    | rstDuring tr taken => exact ⟨_, rfl⟩
    | command tr =>
      rcases hd : decode tr.cmd with _ | i
      · exact ⟨_, runAccepted_reserved (s.accept tr) hd⟩
      · obtain ⟨u, hu⟩ := exec_answers i (s.accept tr)
        exact ⟨u.note, by simp only [runEvent]; rw [runAccepted_legal (s.accept tr) i hd, hu]; rfl⟩

@[simp] theorem runSteps_zero (s : State) : runSteps 0 s = .next s := rfl

/-- A run of `k + 1` steps is one step and then `k`. -/
theorem runSteps_succ {s t : State} (k : Nat) (h : step s = .next t) : runSteps (k + 1) s = runSteps k t := by
  simp [runSteps, h]

@[simp] theorem execLines_nil (s : State) : execLines [] s = .next s := rfl

/-- A list of lines is its first line and then the rest. -/
theorem execLines_cons {s t : State} (l : Line) (rest : List Line) (h : execLine l s = .next t) :
    execLines (l :: rest) s = execLines rest t := by
  simp [execLines, h]

/-- Same generator and same outputs is same generator. -/
theorem sameBlock_of_outputs {s t : State} (h : SameBlockAndOutputs s t) : SameBlock s t := by
  obtain ⟨it, p, rec, mark, rfl⟩ := h
  exact ⟨it, p, s.rsp, s.bytes, rec, mark, rfl⟩

/-- A state has the same generator as itself. -/
theorem sameBlock_refl (s : State) : SameBlock s s :=
  ⟨s.iter, s.port, s.rsp, s.bytes, s.record, s.illegalSeen, rfl⟩

end Sys2Proof.Machine
end

