-- ==== Sys2Proof/Tests/Slice0.lean ====
section
/-! SUPPORT. The model's own tests: what WellFormed refuses, words written out from 30_encoding.md R74, one step of each
command against the numbers of 95_test_vectors.md and of the rules' examples, and for every statement with hypotheses a
concrete input that meets them. -/

namespace Sys2Proof.Tests

open Sys2Proof.Machine

/-! WellFormed: one ill-formed term for each check, and a well-formed one beside it -/

theorem test_line_wellFormed : Line.wellFormed 64 { instr := .initX, opa := 2 ^ 64 - 1, opb := 2 ^ 64 - 1 } = true := by decide

theorem test_line_opa_too_wide : Line.wellFormed 64 { instr := .jump, opa := 2 ^ 64, opb := 0 } = false := by decide

theorem test_line_opb_too_wide : Line.wellFormed 32 { instr := .restore, opa := 0, opb := 2 ^ 32 } = false := by decide

theorem test_line_unread_opa : Line.wellFormed 64 { instr := .next, opa := 1, opb := 0 } = false := by decide

theorem test_line_unread_opb : Line.wellFormed 64 { instr := .fill, opa := 1, opb := 1 } = false := by decide

theorem test_pseudo_seeds_first : Pseudo.wellFormed .cfg32x16XshRr (.seeds (2 ^ 32) 0) = false := by decide

theorem test_pseudo_seeds_second : Pseudo.wellFormed .cfg32x16XshRr (.seeds 0 (2 ^ 32)) = false := by decide

theorem test_pseudo_seed : Pseudo.wellFormed .cfg64x32XshRr (.seed (2 ^ 64)) = false := by decide

theorem test_pseudo_back : Pseudo.wellFormed .cfg64x32XshRr (.back (2 ^ 64)) = false := by decide

theorem test_pseudo_next32 : Pseudo.wellFormed .cfg128x64XshRr .next32 = false := by decide

theorem test_pseudo_next64 : Pseudo.wellFormed .cfg32x16XshRr .next64 = false := by decide

theorem test_assemble_refuses_wide : assemble 64 { instr := .jump, opa := 2 ^ 64, opb := 0 } = none := by decide

/-! Decoding: each command's word, RSV SRC OPC from the left as R74 prints it -/

theorem test_decode_initX : decode 0b00000001#8 = some .initX := by decide

theorem test_decode_initS : decode 0b00010001#8 = some .initS := by decide

theorem test_decode_initD : decode 0b00100001#8 = some .initD := by decide

theorem test_decode_next : decode 0b00000010#8 = some .next := by decide

theorem test_decode_next2 : decode 0b00000011#8 = some .next2 := by decide

theorem test_decode_jump : decode 0b00000100#8 = some .jump := by decide

theorem test_decode_fill : decode 0b00000101#8 = some .fill := by decide

theorem test_decode_peek : decode 0b00000110#8 = some .peek := by decide

theorem test_decode_rdstate : decode 0b00000111#8 = some .rdstate := by decide

theorem test_decode_rdinc : decode 0b00001000#8 = some .rdinc := by decide

theorem test_decode_restore : decode 0b00001001#8 = some .restore := by decide

/-- The reserved words of 95_test_vectors.md V-X, each rejected by name. -/
theorem test_decode_reserved :
    decodeWord 0x00#8 = .reserved .opcodeZero ∧ decodeWord 0x31#8 = .reserved .seedSourceThree ∧
    decodeWord 0x12#8 = .reserved .sourceNonzero ∧ decodeWord 0x24#8 = .reserved .sourceNonzero ∧
    decodeWord 0x0A#8 = .reserved .opcodeUnassigned ∧ decodeWord 0x0F#8 = .reserved .opcodeUnassigned ∧
    decodeWord 0x42#8 = .reserved .rsvNonzero ∧ decodeWord 0x81#8 = .reserved .rsvNonzero ∧
    decodeWord 0xFF#8 = .reserved .rsvNonzero := by decide

/-! One step of each command, from reset of a configuration (95_test_vectors.md) -/

/-- A transaction with the given word and operands, no entropy source. -/
def transaction (w cmd a b : Nat) : Transaction w :=
  { cmd := BitVec.ofNat 8 cmd, opa := BitVec.ofNat w a, opb := BitVec.ofNat w b,
    ent := { avail := false, seed := 0, stream := 0 } }

/-- A freshly reset instance to which the host presents one command. -/
def presented (v : Variant) (tap : OutTap) (cmd a b : Nat) : State :=
  { State.resetOf (standardConfig v tap) with script := [.command (transaction v.stateWidth cmd a b)] }

/-- What one step shows. -/
def after (s : State) : Option (Nat × Nat × Option (Bool × Nat) × List Nat) := observe (step s)

/-- V-I14 -/
theorem test_initX : after (presented .cfg64x32XshRr .new 0x01 0x0123456789ABCDEF 0xFEDCBA9876543210) =
    some (0x8C89CF5F619B20F1, 0xFDB97530ECA86421, some (false, 0), []) := by decide

/-- V-I6: the top bit of the selector is ignored -/
theorem test_initX_top_bit : after (presented .cfg64x32XshRr .new 0x01 42 0x8000000000000036) =
    some (0x185706B82C2E03F8, 0x6D, some (false, 0), []) := by decide

/-- V-I9 -/
theorem test_initS : after (presented .cfg64x32XshRr .new 0x11 0xDEADBEEF 7) =
    some (0x2DA7F1BB07054799, 0x6D, some (false, 0), []) := by decide

/-- V-I12, from a state other than reset -/
theorem test_initD : after ({ presented .cfg64x32XshRr .new 0x21 0 0 with state := 1, incHi := 2 }) =
    some (0x185706B82C2E03F8, 0x6D, some (false, 0), []) := by decide

/-- V-I13: an entropy source that supplies 0, 0 -/
theorem test_initD_entropy :
    after ({ presented .cfg64x32XshRr .new 0x21 0 0 with
      script := [.command { cmd := 0x21, opa := 9, opb := 9, ent := { avail := true, seed := 0, stream := 0 } }] }) =
    some (0x5851F42D4C957F2E, 0x1, some (false, 0), []) := by decide

/-- V-N1 -/
theorem test_next : after (presented .cfg64x32XshRr .new 0x02 0 0) =
    some (0x2B47FED88766BB05, 0x6D, some (false, 0x7B47F409), []) := by decide

/-- V-N1, OLD tap -/
theorem test_next_old : after (presented .cfg64x32XshRr .old 0x02 0 0) =
    some (0x2B47FED88766BB05, 0x6D, some (false, 0xA15C02B7), []) := by decide

/-- V-N3 -/
theorem test_next2 : after (presented .cfg64x32XshRr .new 0x03 0 0) =
    some (0x8B33296D19BF5B4E, 0x6D, some (false, 0xBA1D33307B47F409), []) := by decide

/-- V-N4: 128 bits of response -/
theorem test_next2_wide : after (presented .cfg128x64XshRr .new 0x03 0 0) =
    some (0x8C68363963CCEBD8C041DFF1FBE9B9EE, 0x6D, some (false, 0x920F68FF6341B1CB42BC197D32F2393A), []) := by decide

/-- V-J4 -/
theorem test_jump : after (presented .cfg64x32XshRr .new 0x04 5 0) =
    some (0x8303569FBE80C471, 0x6D, some (false, 0), []) := by decide

/-- V-J9: one step backward -/
theorem test_jump_back : after (presented .cfg64x32XshRr .new 0x04 (2 ^ 64 - 1) 0) =
    some (0x97, 0x6D, some (false, 0), []) := by decide +kernel

/-- V-F5 -/
theorem test_fill : after (presented .cfg64x32XshRr .new 0x05 7 0) =
    some (0x8B33296D19BF5B4E, 0x6D, some (false, 0), [0x09, 0xF4, 0x47, 0x7B, 0x30, 0x33, 0x1D]) := by decide

/-- V-F, W = 32: FILL 3 -/
theorem test_fill_narrow : after (presented .cfg32x16XshRr .new 0x05 3 0) =
    some (0x22D9D32E, 0x6D, some (false, 0), [0xE2, 0x61, 0x45]) := by decide

/-- V-N2 -/
theorem test_peek : after (presented .cfg64x32XshRr .new 0x06 0 0) =
    some (0x185706B82C2E03F8, 0x6D, some (false, 0xA15C02B7), []) := by decide

/-- V-P8, the wrap of the rotate -/
theorem test_peek_all_ones : after ({ presented .cfg64x32XshRr .new 0x06 0 0 with state := 0xFFFFFFFFFFFFFFFF#64 }) =
    some (0xFFFFFFFFFFFFFFFF, 0x6D, some (false, 0xFFF00001), []) := by decide

/-- V-S1 -/
theorem test_rdstate : after (presented .cfg64x32XshRr .new 0x07 0 0) =
    some (0x185706B82C2E03F8, 0x6D, some (false, 0x185706B82C2E03F8), []) := by decide

/-- V-S1 -/
theorem test_rdinc : after (presented .cfg64x32XshRr .new 0x08 0 0) =
    some (0x185706B82C2E03F8, 0x6D, some (false, 0x6D), []) := by decide

/-- V-S3: an even increment is forced odd, STATE loaded as given -/
theorem test_restore : after (presented .cfg64x32XshRr .new 0x09 0 0x6C) = some (0, 0x6D, some (false, 0), []) := by decide

/-- P5: a reserved word, its operands ignored -/
theorem test_reserved : after (presented .cfg64x32XshRr .new 0x00 0x1234 0x5678) =
    some (0x185706B82C2E03F8, 0x6D, some (true, 0), []) := by decide

/-- The vectors of 95_test_vectors.md V-P for the optional permutations -/
theorem test_permute_optional :
    (permute (standardConfig .cfg64x32XshRs .new) 0x0123456789ABCDEF#64).toNat = 0x8D158C12 ∧
    (permute (standardConfig .cfg64x64RxsMXs .new) 0x0123456789ABCDEF#64).toNat = 0x5BA34217F8E973E8 ∧
    (permute (standardConfig .cfg32x32RxsMXs .new) 0xFFFFFFFF#32).toNat = 0x21A4E086 ∧
    (permute (standardConfig .cfg128x64XslRr .new) 0xDE2BCE05BE013BE3D3F6C45A41E54320#128).toNat =
      0xBA14BFFFC8F1861B := by
  decide

/-- A configuration carries its optional permutation (R141): another function in the field, the low O bits of `s + 1` (R11),
is then `permute`; XSH_RR does not read the field, and answers the example of R135. -/
theorem test_permute_carried :
    (permute { standardConfig .cfg64x32XshRs .new with optionalPermute := .add .state (.lit 1) }
      0x01234567FFFFFFFF#64).toNat = 0 ∧
    (permute { standardConfig .cfg64x32XshRr .new with optionalPermute := .state } 0x185706B82C2E03F8#64).toNat =
      0xA15C02B7 := by
  decide

/-! Witnesses: for each statement with hypotheses, an input that meets them -/

/-- The default instance with one event for the host. -/
def withEvents (l : List (HostEvent 64)) : State := { State.reset with script := l }

theorem witness_SeedSourceField :
    ([0x01#8, 0x11#8, 0x21#8, 0x31#8] : List CmdWord).all (fun c =>
      c.extractLsb' 6 2 == 0b00#2 && c.extractLsb' 0 4 == 0x1#4) = true := by decide

theorem witness_ReservedWordsAreRefusedWithoutEffect :
    (withEvents [.command (transaction 64 0x31 0 0)]).script = .command (transaction 64 0x31 0 0) :: [] ∧
    decode (transaction 64 0x31 0 0).cmd = none ∧
    [0x41#8, 0x10#8, 0x0A#8, 0x0F#8, 0x31#8, 0x12#8, 0x39#8].map decode = List.replicate 7 none := by decide

theorem witness_AssembledLinesReadBack :
    Line.wellFormed 128 { instr := .restore, opa := 2 ^ 128 - 1, opb := 0 } = true := by decide

theorem witness_DisassembledTriplesAssembleBack :
    disassemble ({ cmd := 0x04, opa := 5, opb := 7 } : Command 64) = some { instr := .jump, opa := 5, opb := 0 } := by decide

theorem witness_PseudoInstructionsExpand :
    2 ^ 64 - 1 < 2 ^ Variant.cfg64x32XshRr.stateWidth ∧ 1 ≤ 2 ^ 64 - 1 ∧ Variant.cfg64x32XshRr.outWidth = 32 ∧
    Variant.cfg128x64XshRr.outWidth = 64 ∧ Variant.cfg32x16XshRr.outWidth ≠ 32 := by decide

theorem witness_StepRunsTheDecodedCommand :
    (withEvents [.command (transaction 64 0x05 7 0), .rst]).script = .command (transaction 64 0x05 7 0) :: [.rst] ∧
    decode (transaction 64 0x05 7 0).cmd = some .fill := by decide

theorem witness_AdvanceIsBijective : defaultConfig.mult.getLsbD 0 = true := by decide

theorem witness_StreamHasFullPeriod : defaultConfig.mult.toNat % 4 = 1 ∧ State.reset.inc.getLsbD 0 = true := by decide

theorem witness_LowBitsAreASmallerGenerator :
    32 ≤ 64 ∧ defaultConfig.mult.toNat % 4 = 1 ∧ State.reset.inc.getLsbD 0 = true := by decide

theorem witness_QuotientIsTheGeometricSum : 2 ≤ 5 ∧ 0 < 64 ∧ defaultConfig.mult.getLsbD 0 = true := by decide

theorem witness_JumpDistancesAtTheEdges :
    1 ≤ 2 ^ 64 - 1 ∧ 2 ^ 64 - 1 < 2 ^ 64 ∧ defaultConfig.mult.toNat % 4 = 1 ∧ State.reset.inc.getLsbD 0 = true := by decide

theorem witness_JumpAdvancesByOpa : 2 ^ 64 - 1 < 2 ^ State.reset.cfg.w := by decide

theorem witness_JumpEqualsThatManyNexts :
    10000 < 2 ^ State.reset.cfg.w ∧ 2 ^ 64 - 1 < 2 ^ State.reset.cfg.w ∧ State.reset.cfg.mult.toNat % 4 = 1 := by decide

theorem witness_XshRrConstantsAndFormula :
    Variant.cfg64x32XshRr.perm = .xshRr ∧ Variant.cfg128x64XshRr.perm = .xshRr ∧
    Variant.cfg32x16XshRr.perm = .xshRr := by decide

theorem witness_DefaultPermutationBitByBit :
    (∀ i < 64, 27 ≤ i → (0x0000000007FFFFFF#64).getLsbD i = (0x0000000000000001#64).getLsbD i) ∧
    18 ≤ 18 ∧ (19 ≤ 19 ∧ 19 ≤ 31) ∧ (19 ≤ 31 ∧ 31 ≤ 31) := by decide

theorem witness_XshRrCornerCases :
    (0x07FFFFFFFFFFFFFF#64).toNat < 2 ^ (64 - (xshRrValue .cfg64x32XshRr).selBits) ∧
    (0x0000000007FFFFFF#64).toNat < 2 ^ (xshRrValue .cfg64x32XshRr).downShift := by decide

theorem witness_OptionalPermuteIsAnyFunction :
    (standardConfig .cfg64x32XshRs .new).variant.perm ≠ .xshRr ∧ defaultConfig.variant.perm = .xshRr := by decide

/-- Of each clause an input on either side of its boundary. -/
theorem witness_PermuteIsNotInjective :
    topBits (xshRrValue .cfg64x32XshRr).selBits (0x07FFFFFFFFFFFFFF#64) =
      topBits (xshRrValue .cfg64x32XshRr).selBits 0#64 ∧
    (BitVec.ofNat 64 (2 ^ 44 - 1)).toNat < 2 ^ 44 ∧ (BitVec.ofNat 64 (2 ^ 58 - 1)).toNat < 2 ^ 58 ∧
    Variant.cfg128x64XslRr.outWidth < Variant.cfg128x64XslRr.stateWidth := by decide

theorem witness_PeekReturnsTheCurrentWord :
    (presented .cfg64x32XshRr .new 6 0 0).cfg.outTap = .new ∧ (presented .cfg64x32XshRr .old 6 0 0).cfg.outTap = .old := by
  decide

theorem witness_StateRepeatsOnlyAfterAWholePeriod : State.reset.cfg.mult.toNat % 4 = 1 := by decide

theorem witness_FillEmitsTheWordsBytes : 6 < (presented .cfg64x32XshRr .new 5 0 0 |>.withOperands 7#64 0).port.opa.toNat := by
  decide

theorem witness_MixedWidthViewsOfTheOutput :
    State.reset.bytes = [] ∧ (State.reset.cfg.o / 8) ∣ 8 ∧ 8 + 5 < 2 ^ State.reset.cfg.w := by decide

theorem witness_SelectorBitsOfTheIncrement : 0 < 64 ∧ 62 + 1 < 64 := by decide

/-- Each of the four commands meets its alternative. -/
theorem witness_ReseedingForgetsTheOldGenerator :
    [Instr.initX, .initS, .initD, .restore].all (fun i => i == .initX || i == .initS || i == .initD || i == .restore) = true := by
  decide

/-- For each clause, a command that meets its hypotheses. -/
theorem witness_CommandsWriteOnlyWhatTheTableSays :
    (Instr.peek = .peek ∨ Instr.peek = .rdstate ∨ Instr.peek = .rdinc) ∧
    (Instr.fill ≠ .initX ∧ Instr.fill ≠ .initS ∧ Instr.fill ≠ .initD ∧ Instr.fill ≠ .restore) ∧ Instr.fill ≠ .jump ∧
    (Instr.fill ≠ .next ∧ Instr.fill ≠ .next2 ∧ Instr.fill ≠ .peek ∧ Instr.fill ≠ .rdstate ∧ Instr.fill ≠ .rdinc) ∧
    Instr.peek ≠ .fill ∧ Instr.fill = .fill := by decide

theorem witness_EntropyIsReadOnlyByInitD :
    Instr.next ≠ .initD ∧ ¬ Instr.initD ≠ .initD ∧ State.reset.port.ent.avail = false ∧
    ({ avail := false, seed := 3, stream := 4 } : EntropyPort 64).avail = false := by decide

/-- What RDSTATE and RDINC answer at reset, and a different instance of the same configuration. -/
theorem witness_CheckpointResumesTheSequence :
    (∃ a b, exec .rdstate State.reset = .next a ∧ exec .rdinc State.reset = .next b ∧
      (a.rsp.map fun r => r.data.toNat) = some 0x185706B82C2E03F8 ∧ (b.rsp.map fun r => r.data.toNat) = some 0x6D) ∧
    ∃ st hi it p rsp bytes rec mark,
      ({ State.reset with state := 1#64, illegalSeen := true } : State) =
        State.reset.another st hi it p rsp bytes rec mark :=
  ⟨⟨_, _, rfl, rfl, by decide, by decide⟩, _, _, _, _, _, _, _, _, rfl⟩

theorem witness_OneResponsePerCommand :
    (withEvents [.command (transaction 64 0xFF 0 0)]).script = .command (transaction 64 0xFF 0 0) :: [] := by decide

theorem witness_IncrementIsAlwaysOdd : (0x6D#64).getLsbD 0 = true := by decide

/-- A state with an IllegalCommand in its record satisfies the invariant, and a step of it answers a next state. -/
theorem witness_EveryStepKeepsTheRecordConsistent :
    ({ State.reset with record := [{ rsp := some { err := true, data := 0 }, bytes := [] }], illegalSeen := true } : State).Inv ∧
    ∃ t, step ({ State.reset with
      record := [{ rsp := some { err := true, data := 0 }, bytes := [] }], illegalSeen := true }) = .next t := by
  refine ⟨⟨?_, fun _ => rfl⟩, _, rfl⟩
  intro e he r hr _
  simp only [List.mem_singleton] at he
  subst he
  cases hr
  exact ⟨rfl, rfl⟩

theorem witness_HiddenRegistersAreUnobservable :
    SameBlock State.reset { State.reset with iter := { accMult := 7, accPlus := 7, curMult := 7, curPlus := 7, delta := 7 } } :=
  ⟨_, _, _, _, _, _, rfl⟩

theorem witness_ResetEventLoadsTheResetValues :
    (withEvents [.rst]).script = .rst :: [] ∧
    (withEvents [.rstDuring (transaction 64 5 7 0) 3]).script = .rstDuring (transaction 64 5 7 0) 3 :: [] ∧
    decode (transaction 64 5 7 0).cmd = some .fill ∧ decode (transaction 64 2 7 0).cmd ≠ some .fill := by decide

theorem witness_SeedingCommandsLoadInit : (presented .cfg64x32XshRr .new 0x21 0 0).port.ent.avail = false := by decide

theorem witness_RegisterReadsAndRestore : 2 ^ 64 - 1 < 2 ^ State.reset.cfg.w ∧ (2 ^ 64 - 1) % 2 = 1 := by decide

theorem witness_IdleBlockHoldsItsRegisters : State.reset.script = [] := by decide

theorem witness_InstancesAreIndependent :
    (∃ b', stepInstance 0 [State.reset, withEvents [.rst]] = .next b') ∧ (0 : Nat) ≠ 1 ∧
    [State.reset, withEvents [.rst]][1]? = some (withEvents [.rst]) :=
  ⟨⟨_, rfl⟩, by decide, rfl⟩

end Sys2Proof.Tests
end

section
/-! Proofs of the statements on the scope of the hardware (spec/00_scope.md): the entropy port, the step on a legal
word, the admitted configurations and their default parameters. -/

namespace Sys2Proof.Machine

/-! ## The entropy port -/

/-- A state whose ports alone are replaced holds the same generator and the same outputs. -/
theorem sameBlockAndOutputs_withPort (t : State) (p : Transaction t.cfg.w) :
    SameBlockAndOutputs t { t with port := p } :=
  ⟨t.iter, p, t.record, t.illegalSeen, rfl⟩

/-- Seeding loads `init` of the pair the multiplexer gives (R184). -/
theorem seedFrom_eq_load {s : State} {src : SeedSource} {m : BitVec s.cfg.w × BitVec s.cfg.w}
    (h : seedMux s.cfg s.port src = m) :
    s.seedFrom src = s.load (initPair s.cfg.mult m.1 m.2).1 (initPair s.cfg.mult m.1 m.2).2 := by
  rw [← h]
  rfl

/-- Seeding commutes with a change of the entropy port when the multiplexer gives the same pair before and after. -/
theorem seedFrom_withEntropy (s : State) (e : EntropyPort s.cfg.w) (src : SeedSource)
    (h : seedMux s.cfg { s.port with ent := e } src = seedMux s.cfg s.port src) :
    (s.withEntropy e).seedFrom src = (s.seedFrom src).withEntropy e :=
  seedFrom_eq_load (s := s.withEntropy e) h

/-- With ENT_AVAIL = 0 position D of the multiplexer ignores ENT_SEED and ENT_STREAM (R188). -/
theorem seedMux_defaulted_of_unavail_pair (cfg : Config) (t : Transaction cfg.w) (e : EntropyPort cfg.w)
    (ht : t.ent.avail = false) (he : e.avail = false) :
    seedMux cfg { t with ent := e } .defaulted = seedMux cfg t .defaulted := by
  rw [seedMux_defaulted_unavail cfg t ht, seedMux_defaulted_unavail cfg { t with ent := e } he]
  rfl

/-- INIT.D is the only meaning that reads the entropy port, and it does so only through position D of the multiplexer:
where the multiplexer agrees, a change of the port shows in the port alone. -/
theorem exec_withEntropy (i : Instr) (s : State) (e : EntropyPort s.cfg.w)
    (h : i = .initD → seedMux s.cfg { s.port with ent := e } .defaulted = seedMux s.cfg s.port .defaulted) :
    ∃ (t : State) (p : Transaction t.cfg.w),
      exec i s = .next t ∧ exec i (s.withEntropy e) = .next { t with port := p } := by
  cases i with
  | initD =>
    refine ⟨(s.seedFrom .defaulted).respondNothing, { s.port with ent := e }, exec_initD s, ?_⟩
    rw [exec_initD, seedFrom_withEntropy s e .defaulted (h rfl)]
    rfl
  | _ => exact ⟨_, _, rfl, rfl⟩

/-- Settles O41: the only reader of the port is position D of the multiplexer, which ignores it when ENT_AVAIL = 0. -/
theorem entropyIsReadOnlyByInitD : Obligations.EntropyIsReadOnlyByInitD := by
  intro i s e h
  have hmux : i = .initD →
      seedMux s.cfg { s.port with ent := e } .defaulted = seedMux s.cfg s.port .defaulted := by
    intro hi
    obtain hne | ⟨hs, he⟩ := h
    · exact absurd hi hne
    · exact seedMux_defaulted_of_unavail_pair s.cfg s.port e hs he
  obtain ⟨t, p, ht, hu⟩ := exec_withEntropy i s e hmux
  exact ⟨t, _, ht, hu, sameBlockAndOutputs_withPort t p⟩

/-! ## A step on a legal word -/

/-- Accepting the first event of a known list, field by field. -/
theorem accept_of_script (s : State) (t : Transaction s.cfg.w) {e : HostEvent s.cfg.w} {rest : List (HostEvent s.cfg.w)}
    (h : s.script = e :: rest) : s.accept t = { s with port := t, script := rest, rsp := none, bytes := [] } := by
  simp only [State.accept, State.takeEvent, h, List.tail_cons]

/-- A step on a word that decodes answers what the command answers, noted by the host. -/
theorem step_command_legal {s u : State} {t : Transaction s.cfg.w} {rest : List (HostEvent s.cfg.w)} {i : Instr}
    (hs : s.script = .command t :: rest) (hd : decode t.cmd = some i) (hu : exec i (s.accept t) = .next u) :
    step s = .next u.note := by
  calc step s = runAccepted (s.accept t) := step_event s _ rest hs
    _ = noteResult (exec i (s.accept t)) := runAccepted_legal (s.accept t) i hd
    _ = .next u.note := by rw [hu]; rfl

/-- Settles O8: every command answers, and the step is that answer noted. -/
theorem stepRunsTheDecodedCommand : Obligations.StepRunsTheDecodedCommand := by
  intro s t rest i hs hd
  obtain ⟨u, hu⟩ := exec_answers i (s.accept t)
  exact ⟨u, accept_of_script s t hs ▸ hu, step_command_legal hs hd hu⟩

/-! ## The admitted configurations -/

/-- The table of R10 lists every configuration. -/
theorem mem_variant_all (v : Variant) : v ∈ Variant.all := by
  cases v <;> decide

/-- A triple names a configuration exactly when it is that configuration's own triple: no two rows of R10 agree. -/
theorem ofTriple_eq_some_iff (w o : Nat) (p : PermKind) (v : Variant) :
    Variant.ofTriple w o p = some v ↔ v.stateWidth = w ∧ v.outWidth = o ∧ v.perm = p := by
  constructor
  · intro h
    simpa [and_assoc] using List.find?_some h
  · rintro ⟨rfl, rfl, rfl⟩
    cases v <;> rfl

/-- Settles O55: the rows are read off the table, and a triple is looked up in it. -/
theorem onlySevenConfigurations : Obligations.OnlySevenConfigurations :=
  ⟨rfl, mem_variant_all, ofTriple_eq_some_iff, fun _ => rfl, rfl, rfl⟩

/-! ## The default parameters -/

/-- A number below `2^w` stored in `w` bits reads back as itself. -/
theorem toNat_ofNat_of_lt {w n : Nat} (h : n < 2 ^ w) : (BitVec.ofNat w n).toNat = n := by
  rw [BitVec.toNat_ofNat, Nat.mod_eq_of_lt h]

/-- A constant of at most 32 bits fits the state width of every configuration. -/
theorem lt_two_pow_stateWidth (v : Variant) {n : Nat} (h : n < 2 ^ 32) : n < 2 ^ v.stateWidth :=
  have hw : 32 ≤ v.stateWidth := by cases v <;> decide
  h.trans_le (Nat.pow_le_pow_right (by decide) hw)

/-- The stated multiplier fits the state width, so storing it in W bits loses nothing. -/
theorem standardConfig_mult_toNat (v : Variant) (tap : OutTap) :
    (standardConfig v tap).mult.toNat = multValue v.stateWidth := by
  have hlt : multValue v.stateWidth < 2 ^ v.stateWidth := by cases v <;> decide
  exact toNat_ofNat_of_lt hlt

/-- Each stated multiplier is 5 modulo 8 (R7). -/
theorem multValue_mod_eight (w : Nat) : multValue w % 8 = 5 := by
  unfold multValue
  split
  · rfl
  · split <;> rfl

/-- Settles O56: every default fits the state width, so its stored value is the stated one. -/
theorem defaultParameterValues : Obligations.DefaultParameterValues := by
  intro v tap
  have hmult := standardConfig_mult_toNat v tap
  have hmod : (standardConfig v tap).mult.toNat % 8 = 5 := hmult ▸ multValue_mod_eight v.stateWidth
  have hseed : fallbackSeedValue < 2 ^ v.stateWidth := lt_two_pow_stateWidth v (by decide)
  have hstream : fallbackStreamValue < 2 ^ v.stateWidth := lt_two_pow_stateWidth v (by decide)
  exact ⟨hmult, by omega, hmod, toNat_ofNat_of_lt hseed, toNat_ofNat_of_lt hstream,
    toNat_ofNat_of_lt hstream⟩

end Sys2Proof.Machine
end

section
/-! Proofs of the statements on the registers and ports (spec/10_state.md): the storage of INC, the reset values, which
command writes what, and that nothing shows the iterator registers or the past. -/

namespace Sys2Proof.Machine

/-! ## The storage of INC -/

/-- Every admitted state has at least one bit. -/
theorem Config.w_pos (cfg : Config) : 0 < cfg.w := by
  unfold Config.w
  cases cfg.variant <;> decide

/-- A write to INC keeps every bit but bit 0, which then reads 1 (R21). -/
theorem incRead_incStore {w : Nat} (v : BitVec w) : (incRead (incStore v) : BitVec w) = v ||| 1#w := by
  apply BitVec.eq_of_getLsbD_eq
  intro j hj
  rw [incRead_getLsbD _ j hj, BitVec.getLsbD_or, BitVec.getLsbD_one]
  rcases j with _ | j
  · simp [hj]
  · rw [Nat.add_sub_cancel, incStore_getLsbD v j (by omega)]
    simp

/-- Forcing bit 0 leaves an odd value as it is. -/
theorem or_one_of_odd {w : Nat} {v : BitVec w} (h : v.getLsbD 0 = true) : v ||| 1#w = v := by
  apply BitVec.eq_of_getLsbD_eq
  intro j _
  rw [BitVec.getLsbD_or, BitVec.getLsbD_one]
  rcases j with _ | j
  · simp [h]
  · simp

/-- Stored bits that read the same are the same (R25). -/
theorem incRead_injective {w : Nat} : Function.Injective (incRead : BitVec (w - 1) → BitVec w) :=
  Function.LeftInverse.injective incStore_incRead

/-- Settles O47: storing and reading back is `||| 1`, the identity on odd values, and reading back is injective. -/
theorem incrementIsAlwaysOdd : Obligations.IncrementIsAlwaysOdd := by
  intro s
  refine ⟨?_, fun v => incRead_incStore v, ?_, fun hi h => incRead_injective h⟩
  · exact incRead_getLsbD s.incHi 0 (Config.w_pos s.cfg)
  · intro v hv
    exact ⟨incStore v, (incRead_incStore v).trans (or_one_of_odd hv)⟩

/-! ## The reset values -/

/-- INC after reset is the increment of the fallback stream: it is odd, so storing it loses nothing (R38). -/
theorem resetOf_inc (cfg : Config) : (State.resetOf cfg).inc = incOfSelector cfg.fallbackStream := by
  have hodd : (incOfSelector cfg.fallbackStream).getLsbD 0 = true := by
    simp [incOfSelector, Config.w_pos cfg]
  exact (incRead_incStore _).trans (or_one_of_odd hodd)

/-- The increment of stream 54 is 0x6D at every admitted width. -/
theorem standardConfig_reset_inc (v : Variant) (tap : OutTap) :
    (State.resetOf (standardConfig v tap)).inc.toNat = 0x6D := by
  rw [resetOf_inc]
  cases v <;> cases tap <;> decide

/-- STATE after reset with the stated multiplier, seed 42 and stream 54, at each width. -/
theorem standardConfig_reset_state (v : Variant) (tap : OutTap) :
    (State.resetOf (standardConfig v tap)).state.toNat =
      if v.stateWidth = 32 then 0x4A649C30
      else if v.stateWidth = 64 then 0x185706B82C2E03F8
      else 0xDE2BCE05BE013BE3D3F6C45A41E54320 := by
  cases v <;> cases tap <;> decide

/-- Settles O51: the formula in every configuration, evaluated at each width. -/
theorem resetValues : Obligations.ResetValues := by
  refine ⟨fun cfg => ?_, fun v tap => ⟨standardConfig_reset_inc v tap, standardConfig_reset_state v tap⟩,
    standardConfig_reset_state .cfg64x32XshRr .new, standardConfig_reset_inc .cfg64x32XshRr .new, rfl, rfl⟩
  intro c
  have hc : c = incOfSelector cfg.fallbackStream := resetOf_inc cfg
  rw [hc]
  exact ⟨rfl, rfl⟩

/-! ## Which command writes what -/

/-- A fill of `n` bytes emits `n` bytes: the whole words, and the cut one makes up the remainder (R163, R164). -/
theorem fillRun_length (cfg : Config) (c : BitVec cfg.w) (n : Nat) (st : BitVec cfg.w) :
    (fillRun cfg c n st).1.length = n := by
  have hdiv : n / bytesPerWord cfg * bytesPerWord cfg + n % bytesPerWord cfg = n := Nat.div_add_mod' n _
  by_cases h : n % bytesPerWord cfg = 0
  · rw [fillRun_whole cfg c n st h, fillWords_length]
    omega
  · have hlt : n % bytesPerWord cfg < cfg.o / 8 := Nat.mod_lt n (bytesPerWord_pos cfg)
    rw [fillRun_cut cfg c n st h, List.length_append, fillWords_length, List.length_take, wordBytes_length,
      Nat.min_eq_left hlt.le, hdiv]

/-- Every command but FILL leaves the bytes as they are, and writes of STATE, INC, the iterator and RSP_DATA what the
table of R24 gives it. -/
theorem exec_writes_of_ne_fill (i : Instr) (s : State) (hfill : i ≠ .fill) : ∃ st hi it r,
    exec i s = .next { s with state := st, incHi := hi, iter := it, rsp := some r } ∧
    r.err = false ∧
    (i = .peek ∨ i = .rdstate ∨ i = .rdinc → st = s.state) ∧
    (i ≠ .initX → i ≠ .initS → i ≠ .initD → i ≠ .restore → hi = s.incHi) ∧
    (i ≠ .jump → it = s.iter) ∧
    (i ≠ .next → i ≠ .next2 → i ≠ .peek → i ≠ .rdstate → i ≠ .rdinc → r.data = 0) := by
  cases i with
  | fill => exact absurd rfl hfill
  | initX | initS | initD | restore =>
    exact ⟨_, _, _, _, rfl, rfl, by simp, by simp, fun _ => rfl, fun _ _ _ _ _ => BitVec.setWidth_zero _ _⟩
  | next | next2 => exact ⟨_, _, _, _, rfl, rfl, by simp, fun _ _ _ _ => rfl, fun _ => rfl, by simp⟩
  | jump =>
    exact ⟨_, _, _, _, rfl, rfl, by simp, fun _ _ _ _ => rfl, by simp, fun _ _ _ _ _ => BitVec.setWidth_zero _ _⟩
  | peek | rdstate | rdinc =>
    exact ⟨_, _, _, _, rfl, rfl, fun _ => rfl, fun _ _ _ _ => rfl, fun _ => rfl, by simp⟩

/-- Settles O45: FILL emits OPA bytes and keeps INC and the iterator; every other command emits none. -/
theorem commandsWriteOnlyWhatTheTableSays : Obligations.CommandsWriteOnlyWhatTheTableSays := by
  intro i s
  by_cases hfill : i = .fill
  · subst hfill
    exact ⟨_, _, _, _, _, exec_fill s, rfl, by simp, fun _ _ _ _ => rfl, fun _ => rfl,
      fun _ _ _ _ _ => BitVec.setWidth_zero _ _, by simp, fun _ => fillRun_length _ _ _ _⟩
  · obtain ⟨st, hi, it, r, hexec, herr, hstate, hinc, hiter, hdata⟩ := exec_writes_of_ne_fill i s hfill
    refine ⟨st, hi, it, r, [], ?_, herr, hstate, hinc, hiter, hdata, fun _ => rfl, fun h => absurd h hfill⟩
    rw [hexec, List.append_nil]

/-! ## The iterator registers and the past are unobservable -/

/-- `s` with another past: other iterator registers, another record and mark; its generator, inputs and outputs stay. -/
def State.withPast (s : State) (it : Iterator s.cfg.w) (rec : List (Exchange s.cfg.rw)) (mark : Bool) : State :=
  s.another s.state s.incHi it s.port s.rsp s.bytes rec mark

/-- Noting the outputs touches the record alone. -/
theorem sameBlockAndOutputs_note {s t : State} (h : SameBlockAndOutputs s t) : SameBlockAndOutputs s.note t.note := by
  obtain ⟨it, p, rec, mark, rfl⟩ := h
  exact ⟨it, p, rec ++ [⟨s.rsp, s.bytes⟩], mark, rfl⟩

/-- Accepting a command samples its inputs and ends the old outputs, so that two states with the same generator then
differ in their past alone (R23, R261). -/
theorem another_accept (s : State) (it : Iterator s.cfg.w) (p tr : Transaction s.cfg.w)
    (rsp : Option (Response s.cfg.rw)) (bytes : List Byte) (rec : List (Exchange s.cfg.rw)) (mark : Bool) :
    (s.another s.state s.incHi it p rsp bytes rec mark).accept tr = (s.accept tr).withPast it rec mark := rfl

/-- No meaning reads the iterator registers, the record or the mark; JUMP overwrites the first (R34, R35, R110). -/
theorem exec_withPast (i : Instr) (s : State) (it : Iterator s.cfg.w) (rec : List (Exchange s.cfg.rw)) (mark : Bool) :
    ∃ u v, exec i s = .next u ∧ exec i (s.withPast it rec mark) = .next v ∧ SameBlockAndOutputs u v := by
  cases i with
  | jump =>
    exact ⟨_, _, exec_jump s, exec_jump _, iteratorRun s.cfg.mult s.inc s.port.opa, s.port, rec, mark, rfl⟩
  | _ => exact ⟨_, _, rfl, rfl, it, s.port, rec, mark, rfl⟩

/-- An accepted word that decodes answers what its command answers, noted by the host. -/
theorem runAccepted_of_exec {s u : State} {i : Instr} (hd : decode s.port.cmd = some i) (hu : exec i s = .next u) :
    runAccepted s = .next u.note := by
  rw [runAccepted_legal s i hd, hu]
  rfl

/-- Running the accepted command, legal or reserved, gives the same registers and outputs whatever the past. -/
theorem runAccepted_withPast (s : State) (it : Iterator s.cfg.w) (rec : List (Exchange s.cfg.rw)) (mark : Bool) :
    ∃ u v, runAccepted s = .next u ∧ runAccepted (s.withPast it rec mark) = .next v ∧ SameBlockAndOutputs u v := by
  rcases hd : decode s.port.cmd with _ | i
  · have hpast : SameBlockAndOutputs s.raiseIllegal (s.withPast it rec mark).raiseIllegal :=
      ⟨it, s.port, rec, true, rfl⟩
    exact ⟨_, _, runAccepted_reserved s hd, runAccepted_reserved _ hd, sameBlockAndOutputs_note hpast⟩
  · obtain ⟨u, v, hu, hv, huv⟩ := exec_withPast i s it rec mark
    exact ⟨u.note, v.note, runAccepted_of_exec hd hu, runAccepted_of_exec hd hv, sameBlockAndOutputs_note huv⟩

/-- RST during a command loads the reset values; the bytes taken by then are the same whatever the past (R253). -/
theorem sameBlockAndOutputs_abandon_withPast (s : State) (taken : Nat) (it : Iterator s.cfg.w)
    (rec : List (Exchange s.cfg.rw)) (mark : Bool) :
    SameBlockAndOutputs (s.abandon taken) ((s.withPast it rec mark).abandon taken) :=
  ⟨Iterator.afterReset s.cfg.w, s.port, rec, mark || (decode s.port.cmd).isNone, rfl⟩

/-- One step: two states with the same generator and script do the same event, with the same outputs. -/
theorem step_sameBlock {s t : State} (h : SameBlock s t) :
    ∃ s' t', step s = .next s' ∧ step t = .next t' ∧ SameBlockAndOutputs s' t' := by
  obtain ⟨it, p, rsp, bytes, rec, mark, rfl⟩ := h
  rcases hs : s.script with _ | ⟨e, rest⟩
  · exact ⟨_, _, step_idle s hs, step_idle _ hs, it, p, rec, mark, rfl⟩
  · rw [step_event s e rest hs, step_event (s.another s.state s.incHi it p rsp bytes rec mark) e rest hs]
    cases e with
    | command tr =>
      simp only [runEvent]
      rw [another_accept]
      exact runAccepted_withPast (s.accept tr) it rec mark
    | rst => exact ⟨_, _, rfl, rfl, Iterator.afterReset s.cfg.w, p, rec, mark, rfl⟩
    | rstDuring tr taken =>
      simp only [runEvent]
      rw [another_accept]
      have hpast := sameBlockAndOutputs_abandon_withPast (s.accept tr) taken it rec mark
      exact ⟨_, _, rfl, rfl, sameBlockAndOutputs_note hpast⟩

/-- Any number of steps, at least one: each begins where the step before left two states with the same generator. -/
theorem runSteps_sameBlock (k : Nat) {s t : State} (h : SameBlock s t) :
    ∃ s' t', runSteps (k + 1) s = .next s' ∧ runSteps (k + 1) t = .next t' ∧ SameBlockAndOutputs s' t' := by
  induction k generalizing s t with
  | zero =>
    obtain ⟨s₁, t₁, hs, ht, hout⟩ := step_sameBlock h
    exact ⟨s₁, t₁, runSteps_succ 0 hs, runSteps_succ 0 ht, hout⟩
  | succ k ih =>
    obtain ⟨s₁, t₁, hs, ht, hout⟩ := step_sameBlock h
    rw [runSteps_succ (k + 1) hs, runSteps_succ (k + 1) ht]
    exact ih (sameBlock_of_outputs hout)

/-- Settles O50: `SameBlock` is a simulation, since a step reads neither the iterator registers nor the past. -/
theorem hiddenRegistersAreUnobservable : Obligations.HiddenRegistersAreUnobservable := by
  intro s t h
  refine ⟨fun s' hs' => ?_, fun k => runSteps_sameBlock k h⟩
  obtain ⟨s₁, t₁, hs, ht, hout⟩ := step_sameBlock h
  have heq : s₁ = s' := Host.Outcome.next.inj (hs.symm.trans hs')
  exact ⟨t₁, ht, heq ▸ hout⟩

end Sys2Proof.Machine
end

section
/-! Proofs of the statements on the views of the output and on several instances (spec/20_memory.md). -/

namespace Sys2Proof.Machine

/-! ## The bytes of a fill -/

/-- `q + r` whole words are `q` words and then `r` words from where they end. -/
theorem fillWords_add (cfg : Config) (c : BitVec cfg.w) (q r : Nat) (st : BitVec cfg.w) :
    fillWords cfg c (q + r) st =
      ((fillWords cfg c q st).1 ++ (fillWords cfg c r (fillWords cfg c q st).2).1,
        (fillWords cfg c r (fillWords cfg c q st).2).2) := by
  induction q generalizing st with
  | zero => simp [fillWords]
  | succ q ih => simp [Nat.succ_add, fillWords, ih]

/-- A fill that begins with whole words is those words and then the fill of the rest: only the last word is cut (R164). -/
theorem fillRun_add (cfg : Config) (c : BitVec cfg.w) {n : Nat} (m : Nat) (st : BitVec cfg.w)
    (hn : bytesPerWord cfg ∣ n) :
    fillRun cfg c (n + m) st =
      ((fillRun cfg c n st).1 ++ (fillRun cfg c m (fillRun cfg c n st).2).1,
        (fillRun cfg c m (fillRun cfg c n st).2).2) := by
  have hdiv : (n + m) / bytesPerWord cfg = n / bytesPerWord cfg + m / bytesPerWord cfg :=
    Nat.add_div_of_dvd_right hn
  have hmod : (n + m) % bytesPerWord cfg = m % bytesPerWord cfg := by
    rw [Nat.add_mod, Nat.mod_eq_zero_of_dvd hn, Nat.zero_add, Nat.mod_mod]
  rw [fillRun_whole cfg c n st (Nat.mod_eq_zero_of_dvd hn)]
  by_cases hm : m % bytesPerWord cfg = 0
  · rw [fillRun_whole cfg c m _ hm, fillRun_whole cfg c (n + m) st (hmod.trans hm), hdiv, fillWords_add]
  · rw [fillRun_cut cfg c m _ hm, fillRun_cut cfg c (n + m) st (hmod ▸ hm), hdiv, hmod, fillWords_add,
      List.append_assoc]

/-- A fill of two words' bytes emits the two words of two draws. -/
theorem fillRun_two_words (cfg : Config) (c st : BitVec cfg.w) :
    fillRun cfg c (2 * (cfg.o / 8)) st =
      (wordBytes (nextWord cfg c st).1 ++ wordBytes (nextWord cfg c (nextWord cfg c st).2).1,
        (nextWord cfg c (nextWord cfg c st).2).2) := by
  have hdiv : 2 * (cfg.o / 8) / bytesPerWord cfg = 2 := Nat.mul_div_cancel 2 (bytesPerWord_pos cfg)
  have hmod : 2 * (cfg.o / 8) % bytesPerWord cfg = 0 := Nat.mul_mod_left 2 (cfg.o / 8)
  rw [fillRun_whole cfg c _ st hmod, hdiv]
  simp [fillWords]

/-! ## The bytes of a response -/

/-- Every admitted output width is a whole number of bytes. -/
theorem Config.eight_dvd_o (cfg : Config) : 8 ∣ cfg.o := by
  unfold Config.o
  cases cfg.variant <;> decide

/-- The bytes of the concatenation of two words are those of the low word and then those of the high one (R53). -/
theorem wordBytes_append {o : Nat} (h8 : 8 ∣ o) (hi lo : BitVec o) :
    wordBytes (hi ++ lo) = wordBytes lo ++ wordBytes hi := by
  obtain ⟨q, rfl⟩ := h8
  have hlow : ∀ j < q, (hi ++ lo).extractLsb' (8 * j) 8 = lo.extractLsb' (8 * j) 8 := fun j hj =>
    BitVec.extractLsb'_append_eq_of_add_le (by omega)
  have hhigh : ∀ j, (hi ++ lo).extractLsb' (8 * (q + j)) 8 = hi.extractLsb' (8 * j) 8 := fun j => by
    rw [BitVec.extractLsb'_append_eq_of_le (by omega), Nat.mul_add, Nat.add_sub_cancel_left]
  have hlen : (8 * q + 8 * q) / 8 = q + q := by omega
  simpa [wordBytes, hlen, List.range_add, Function.comp_def, hhigh] using hlow

/-- Zero-extending a word keeps its bytes. -/
theorem map_extractLsb'_setWidth {n m : Nat} (v : BitVec n) (h : n ≤ m) :
    ((List.range (n / 8)).map fun j => (v.setWidth m).extractLsb' (8 * j) 8) = wordBytes v := by
  refine List.map_congr_left fun j hj => ?_
  have hj' : j < n / 8 := List.mem_range.mp hj
  exact BitVec.extractLsb'_setWidth_of_le (by omega)

/-- The first `2 · BPW` bytes of the response to two words are the bytes of the first word, then of the second (R162). -/
theorem okResponse_bytes_two_words (cfg : Config) (w₁ w₂ : BitVec cfg.o) :
    ((List.range (2 * (cfg.o / 8))).map fun j => (okResponse cfg.rw (w₂ ++ w₁)).data.extractLsb' (8 * j) 8) =
      wordBytes w₁ ++ wordBytes w₂ := by
  have h8 := Config.eight_dvd_o cfg
  have hlen : 2 * (cfg.o / 8) = (cfg.o + cfg.o) / 8 := by omega
  have hrw : cfg.o + cfg.o ≤ cfg.rw := Nat.two_mul cfg.o ▸ Nat.le_max_right _ _
  rw [hlen, ← wordBytes_append h8]
  exact map_extractLsb'_setWidth (w₂ ++ w₁) hrw

/-! ## Lines that draw words -/

/-- `s` after commands that draw words: a new STATE, new ports and outputs; INC, the iterator registers and the host's
side stay (R24). -/
def State.afterDraws (s : State) (st : BitVec s.cfg.w) (p : Transaction s.cfg.w) (r : Option (Response s.cfg.rw))
    (bs : List Byte) : State :=
  s.another st s.incHi s.iter p r bs s.record s.illegalSeen

/-- Draws that end in one STATE leave one generator, whatever the ports and outputs. -/
theorem sameBlock_afterDraws (s : State) (st : BitVec s.cfg.w) (p p' : Transaction s.cfg.w)
    (r r' : Option (Response s.cfg.rw)) (bs bs' : List Byte) :
    SameBlock (s.afterDraws st p r bs) (s.afterDraws st p' r' bs') :=
  ⟨s.iter, p', r', bs', s.record, s.illegalSeen, rfl⟩

/-- FILL draws the words of a fill of OPA bytes. -/
theorem exec_fill_withOperands (s : State) (a b : BitVec s.cfg.w) : ∃ p r,
    exec .fill (s.withOperands a b) =
      .next (s.afterDraws (fillRun s.cfg s.inc a.toNat s.state).2 p r
        (s.bytes ++ (fillRun s.cfg s.inc a.toNat s.state).1)) :=
  ⟨_, _, rfl⟩

/-- A FILL line of `n` bytes, `n` fitting the operand bus, draws the words of a fill of `n` bytes. -/
theorem execLine_fill (s : State) {n : Nat} (hn : n < 2 ^ s.cfg.w) : ∃ p r,
    execLine { instr := .fill, opa := n, opb := 0 } s =
      .next (s.afterDraws (fillRun s.cfg s.inc n s.state).2 p r (s.bytes ++ (fillRun s.cfg s.inc n s.state).1)) := by
  have h := exec_fill_withOperands s (BitVec.ofNat s.cfg.w n) (BitVec.ofNat s.cfg.w 0)
  rwa [toNat_ofNat_of_lt hn] at h

/-- A NEXT line draws one word. -/
theorem execLine_next (s : State) : ∃ p r,
    execLine { instr := .next, opa := 0, opb := 0 } s =
      .next (s.afterDraws (nextWord s.cfg s.inc s.state).2 p r s.bytes) :=
  ⟨_, _, rfl⟩

/-- Two NEXT lines draw two words. -/
theorem execLines_two_next (s : State) : ∃ p r,
    execLines (List.replicate 2 { instr := .next, opa := 0, opb := 0 }) s =
      .next (s.afterDraws (nextWord s.cfg s.inc (nextWord s.cfg s.inc s.state).2).2 p r s.bytes) := by
  obtain ⟨p₁, r₁, h₁⟩ := execLine_next s
  obtain ⟨p₂, r₂, h₂⟩ := execLine_next (s.afterDraws (nextWord s.cfg s.inc s.state).2 p₁ r₁ s.bytes)
  exact ⟨p₂, r₂, (execLines_cons _ _ h₁).trans (execLines_cons _ _ h₂)⟩

/-- Two FILL lines, the first of whole words, draw and emit what one fill of all their bytes does. -/
theorem execLines_two_fills (s : State) {n m : Nat} (hn : bytesPerWord s.cfg ∣ n) (hlt : n + m < 2 ^ s.cfg.w) : ∃ p r,
    execLines [{ instr := .fill, opa := n, opb := 0 }, { instr := .fill, opa := m, opb := 0 }] s =
      .next (s.afterDraws (fillRun s.cfg s.inc (n + m) s.state).2 p r
        (s.bytes ++ (fillRun s.cfg s.inc (n + m) s.state).1)) := by
  have hnlt : n < 2 ^ s.cfg.w := (Nat.le_add_right n m).trans_lt hlt
  have hmlt : m < 2 ^ s.cfg.w := (Nat.le_add_left m n).trans_lt hlt
  obtain ⟨p₁, r₁, h₁⟩ := execLine_fill s hnlt
  obtain ⟨p₂, r₂, h₂⟩ := execLine_fill (s.afterDraws (fillRun s.cfg s.inc n s.state).2 p₁ r₁
    (s.bytes ++ (fillRun s.cfg s.inc n s.state).1)) hmlt
  rw [fillRun_add s.cfg s.inc m s.state hn, ← List.append_assoc]
  exact ⟨p₂, r₂, (execLines_cons _ _ h₁).trans (execLines_cons _ _ h₂)⟩

/-! ## Mixed-width views of the output -/

/-- Two words' bytes fit the operand bus. -/
theorem two_words_lt (cfg : Config) : 2 * (cfg.o / 8) < 2 ^ cfg.w := by
  unfold Config.o Config.w
  cases cfg.variant <;> decide

/-- NEXT2, two NEXTs and a FILL of two words draw the same two words. -/
theorem next2_fill_next_views (s : State) (hs : s.bytes = []) : ∃ t u v,
    exec .next2 s = .next t ∧
    execLine { instr := .fill, opa := 2 * (s.cfg.o / 8), opb := 0 } s = .next u ∧
    execLines (List.replicate 2 { instr := .next, opa := 0, opb := 0 }) s = .next v ∧
    SameBlock t u ∧ SameBlock t v ∧
    (t.rsp.map fun r => (List.range (2 * (s.cfg.o / 8))).map fun j => r.data.extractLsb' (8 * j) 8) =
      some u.bytes := by
  obtain ⟨p, r, hfill⟩ := execLine_fill s (two_words_lt s.cfg)
  obtain ⟨p', r', hnext⟩ := execLines_two_next s
  rw [fillRun_two_words, hs, List.nil_append] at hfill
  exact ⟨_, _, _, exec_next2 s, hfill, hnext, sameBlock_afterDraws s _ s.port p _ r s.bytes _,
    sameBlock_afterDraws s _ s.port p' _ r' s.bytes s.bytes,
    congrArg some (okResponse_bytes_two_words s.cfg _ _)⟩

/-- A FILL of whole words and then a FILL are one FILL. -/
theorem fill_then_fill (s : State) (n m : Nat) (hn : (s.cfg.o / 8) ∣ n) (hlt : n + m < 2 ^ s.cfg.w) : ∃ t u,
    execLines [{ instr := .fill, opa := n, opb := 0 }, { instr := .fill, opa := m, opb := 0 }] s = .next t ∧
    execLine { instr := .fill, opa := n + m, opb := 0 } s = .next u ∧ SameBlock t u ∧ t.bytes = u.bytes := by
  obtain ⟨p, r, htwo⟩ := execLines_two_fills s hn hlt
  obtain ⟨p', r', hone⟩ := execLine_fill s hlt
  exact ⟨_, _, htwo, hone, sameBlock_afterDraws s _ p p' r r' _ _, rfl⟩

/-- Settles O35: every view draws the same words, and a fill cuts only its last word; cut in the middle of a word, the
rest of that word is lost. -/
theorem mixedWidthViewsOfTheOutput : Obligations.MixedWidthViewsOfTheOutput :=
  ⟨next2_fill_next_views, fill_then_fill, _, _, rfl, rfl, by decide⟩

/-! ## Several instances -/

/-- Stepping a block that is not there does nothing. -/
theorem stepInstance_none {b : Instances} {n : Nat} (h : b[n]? = none) : stepInstance n b = .next b := by
  simp [stepInstance, h]

/-- Stepping a block puts its next state in its place. -/
theorem stepInstance_some {b : Instances} {n : Nat} {s t : State} (h : b[n]? = some s) (hst : step s = .next t) :
    stepInstance n b = .next (b.set n t) := by
  simp [stepInstance, h, hst]

/-- A schedule is its first step and then the rest. -/
theorem runSchedule_cons {b b' : Instances} {n : Nat} (rest : List Nat) (h : stepInstance n b = .next b') :
    runSchedule (n :: rest) b = runSchedule rest b' := by
  simp [runSchedule, h]

/-- A step of block `n` completes; it makes its own step and every other block stays as it was. -/
theorem stepInstance_answers (n : Nat) (b : Instances) : ∃ b', stepInstance n b = .next b' ∧
    b'.length = b.length ∧ (∀ m, n ≠ m → b'[m]? = b[m]?) ∧
    ∀ s, b[n]? = some s → ∃ t, step s = .next t ∧ b'[n]? = some t := by
  rcases hn : b[n]? with _ | s
  · exact ⟨b, stepInstance_none hn, rfl, fun _ _ => rfl, by simp⟩
  · obtain ⟨t, ht⟩ := step_answers s
    have hlt : n < b.length := (List.getElem?_eq_some_iff.mp hn).1
    refine ⟨b.set n t, stepInstance_some hn ht, List.length_set, fun m hm => List.getElem?_set_ne hm, ?_⟩
    rintro _ ⟨⟩
    exact ⟨t, ht, List.getElem?_set_self hlt⟩

/-- Under a schedule each block makes as many steps of its own as the schedule gives it. -/
theorem runSchedule_answers (order : List Nat) (b : Instances) : ∃ b', runSchedule order b = .next b' ∧
    b'.length = b.length ∧
    ∀ (n : Nat) (s : State), b[n]? = some s → ∃ t, runSteps (order.count n) s = .next t ∧ b'[n]? = some t := by
  induction order generalizing b with
  | nil => exact ⟨b, rfl, rfl, fun _ s hs => ⟨s, rfl, hs⟩⟩
  | cons a rest ih =>
    obtain ⟨b₁, hb₁, hlen₁, hother, hown⟩ := stepInstance_answers a b
    obtain ⟨b₂, hb₂, hlen₂, hrest⟩ := ih b₁
    refine ⟨b₂, (runSchedule_cons rest hb₁).trans hb₂, hlen₂.trans hlen₁, fun n s hs => ?_⟩
    by_cases han : a = n
    · subst han
      obtain ⟨t, ht, ht₁⟩ := hown s hs
      rw [List.count_cons_self, runSteps_succ _ ht]
      exact hrest a t ht₁
    · rw [List.count_cons_of_ne han]
      exact hrest n s ((hother n han).trans hs)

/-- Settles O54: one step moves its own block alone, so that a schedule gives each block its own steps. -/
theorem instancesAreIndependent : Obligations.InstancesAreIndependent := by
  refine ⟨fun b b' n m hnm h => ?_, runSchedule_answers⟩
  obtain ⟨b₁, hb₁, _, hother, _⟩ := stepInstance_answers n b
  have heq : b₁ = b' := Host.Outcome.next.inj (hb₁.symm.trans h)
  exact heq ▸ hother m hnm

end Sys2Proof.Machine
end

section
/-! Proofs of the statements on the encoding (spec/30_encoding.md), first part: the decoder read field by field, the
command map, the SRC field, and the reserved words as a set. -/

namespace Sys2Proof

/-! ## The decoder, field by field -/

/-- The command a reading stands for: none where it is reserved. -/
def Decoded.instr? : Decoded → Option Instr
  | .command i => some i
  | .reserved _ => none

@[simp] theorem Decoded.instr?_command (i : Instr) : (Decoded.command i).instr? = some i := rfl

@[simp] theorem Decoded.instr?_reserved (r : Reserved) : (Decoded.reserved r).instr? = none := rfl

/-- With RSV = 00 the opcode map decides (R74). -/
theorem decode_of_rsv_zero {c : CmdWord} (h : fieldRsv c = 0) :
    decode c = (decodeOpcode (fieldOpc c) (fieldSrc c)).instr? := by
  have hword : decodeWord c = decodeOpcode (fieldOpc c) (fieldSrc c) := if_pos h
  rw [← hword]
  rfl

/-- With any other RSV the word is reserved (R76). -/
theorem decode_of_rsv_ne_zero {c : CmdWord} (h : fieldRsv c ≠ 0) : decode c = none := by
  have hword : decodeWord c = .reserved .rsvNonzero := if_neg h
  simp only [decode, hword]

/-- An opcode other than 0x1 stands for its command under SRC = 00 alone (R76). -/
theorem instr?_decodePlain (src : BitVec 2) (i : Instr) :
    (decodePlain src i).instr? = if src = 0 then some i else none := by
  unfold decodePlain
  split <;> rfl

/-- Opcode 0x1 stands for the INIT that SRC names (R75). -/
theorem instr?_decodeInit (src : BitVec 2) :
    (decodeInit src).instr? =
      if src = 0b00#2 then some .initX
      else if src = 0b01#2 then some .initS
      else if src = 0b10#2 then some .initD
      else none := by
  decide +revert

/-- Each opcode from 0x2 to 0x9 has one command of its own (R74). -/
theorem decodeOpcode_plain {opc : BitVec 4} (src : BitVec 2) (h₂ : 0x2 ≤ opc.toNat) (h₉ : opc.toNat ≤ 0x9) :
    ∃ i, decodeOpcode opc src = decodePlain src i := by
  unfold decodeOpcode
  interval_cases opc.toNat <;> exact ⟨_, rfl⟩

/-- The opcodes from 0xA up are unassigned (R76). -/
theorem decodeOpcode_unassigned {opc : BitVec 4} (src : BitVec 2) (h : 0xA ≤ opc.toNat) :
    decodeOpcode opc src = .reserved .opcodeUnassigned := by
  have hlt : opc.toNat < 16 := opc.isLt
  unfold decodeOpcode
  interval_cases opc.toNat <;> rfl

/-- The pairs (OPC, SRC) without a command: the last four conditions of R76. -/
theorem instr?_decodeOpcode_eq_none_iff (opc : BitVec 4) (src : BitVec 2) :
    (decodeOpcode opc src).instr? = none ↔
      (opc = 0x0#4 ∨ 0xA ≤ opc.toNat ∨ (opc = 0x1#4 ∧ src = 0b11#2) ∨
        (0x2 ≤ opc.toNat ∧ opc.toNat ≤ 0x9 ∧ src ≠ 0b00#2)) := by
  have hzero : opc = 0x0#4 ↔ opc.toNat = 0 := BitVec.toNat_eq
  have hone : opc = 0x1#4 ↔ opc.toNat = 1 := BitVec.toNat_eq
  obtain h₀ | h₁ | ⟨h₂, h₉⟩ | hA : opc.toNat = 0 ∨ opc.toNat = 1 ∨ (0x2 ≤ opc.toNat ∧ opc.toNat ≤ 0x9) ∨
      0xA ≤ opc.toNat := by omega
  · rw [hzero.2 h₀]
    simp [decodeOpcode]
  · have hinit : (decodeOpcode 0x1#4 src).instr? = none ↔ src = 0b11#2 := by decide +revert
    rw [hone.2 h₁, hinit]
    simp
  · obtain ⟨i, hi⟩ := decodeOpcode_plain src h₂ h₉
    have hn : opc.toNat ≠ 0 ∧ opc.toNat ≠ 1 ∧ ¬ 0xA ≤ opc.toNat := by omega
    rw [hi, instr?_decodePlain, hzero, hone]
    simp [h₂, h₉, hn]
  · rw [decodeOpcode_unassigned src hA]
    simp [hA]

/-- The pair (OPC, SRC) of a command determines it, and is the one the encoder writes (R74, R75): checked
for each command over the 64 pairs. -/
theorem fields_of_instr?_decodeOpcode {opc : BitVec 4} {src : BitVec 2} {i : Instr}
    (h : (decodeOpcode opc src).instr? = some i) : src = encodeSrc i ∧ opc = encodeOpc i := by
  revert opc src
  cases i <;> decide

/-- A word is the concatenation of its three fields (R71). -/
theorem fields_append (c : CmdWord) : fieldRsv c ++ fieldSrc c ++ fieldOpc c = c := by
  have hhigh : fieldRsv c ++ fieldSrc c = c.extractLsb' 4 4 := BitVec.extractLsb'_append_extractLsb'_eq_extractLsb' rfl
  have hall : c.extractLsb' 4 4 ++ fieldOpc c = c.extractLsb' 0 8 :=
    BitVec.extractLsb'_append_extractLsb'_eq_extractLsb' rfl
  rw [hhigh, hall, BitVec.extractLsb'_eq_self]

/-! ## The command map -/

/-- The word of a command decodes to the command. -/
theorem decode_encode (i : Instr) : decode (encode i) = some i := by
  cases i <;> rfl

/-- A word that decodes to a command is the word of that command: no bit of it is free (R74). -/
theorem encode_of_decode {c : CmdWord} {i : Instr} (h : decode c = some i) : encode i = c := by
  have hrsv : fieldRsv c = 0 := by
    by_contra hne
    rw [decode_of_rsv_ne_zero hne] at h
    cases h
  rw [decode_of_rsv_zero hrsv] at h
  obtain ⟨hsrc, hopc⟩ := fields_of_instr?_decodeOpcode h
  calc encode i = fieldRsv c ++ fieldSrc c ++ fieldOpc c := by rw [hrsv, hsrc, hopc]; rfl
    _ = c := fields_append c

/-- The decoder's test for a command is equality with its word (R74). -/
theorem decode_eq_some_iff (c : CmdWord) (i : Instr) : decode c = some i ↔ c = encode i :=
  ⟨fun h => (encode_of_decode h).symm, fun h => h ▸ decode_encode i⟩

/-- Settles O1: the test for each command is equality with its word, and the rest is read off the tables. -/
theorem commandMapIsTheOpcodeTable : Obligations.CommandMapIsTheOpcodeTable := by
  refine ⟨fun c => ?_, rfl, by decide, by decide, by decide, by decide, by decide⟩
  exact ⟨decode_eq_some_iff c .initX, decode_eq_some_iff c .initS, decode_eq_some_iff c .initD,
    decode_eq_some_iff c .next, decode_eq_some_iff c .next2, decode_eq_some_iff c .jump,
    decode_eq_some_iff c .fill, decode_eq_some_iff c .peek, decode_eq_some_iff c .rdstate,
    decode_eq_some_iff c .rdinc, decode_eq_some_iff c .restore⟩

/-! ## The SRC field -/

/-- Settles O2: under OPC = 0x1 SRC alone decides, and position D takes both inputs by the strap ENT_AVAIL. -/
theorem seedSourceField : Obligations.SeedSourceField := by
  refine ⟨fun c hrsv hopc => ?_, fun cfg t => ⟨rfl, rfl, ?_⟩⟩
  · have hinit : decodeOpcode (fieldOpc c) (fieldSrc c) = decodeInit (fieldSrc c) := by
      rw [show fieldOpc c = 0x1#4 from hopc]
      rfl
    rw [decode_of_rsv_zero hrsv, hinit]
    exact instr?_decodeInit (fieldSrc c)
  · cases havail : t.ent.avail with
    | true => exact Machine.seedMux_defaulted_avail cfg t havail
    | false => exact Machine.seedMux_defaulted_unavail cfg t havail

/-! ## The reserved words -/

/-- A word is reserved exactly when one of the five conditions of R76 holds. -/
theorem decode_eq_none_iff (c : CmdWord) :
    decode c = none ↔
      (fieldRsv c ≠ 0b00#2 ∨ fieldOpc c = 0x0#4 ∨ 0xA ≤ (fieldOpc c).toNat ∨
        (fieldOpc c = 0x1#4 ∧ fieldSrc c = 0b11#2) ∨
        (0x2 ≤ (fieldOpc c).toNat ∧ (fieldOpc c).toNat ≤ 0x9 ∧ fieldSrc c ≠ 0b00#2)) := by
  by_cases hrsv : fieldRsv c = 0b00#2
  · rw [decode_of_rsv_zero hrsv, instr?_decodeOpcode_eq_none_iff]
    simp only [hrsv, ne_eq, not_true_eq_false, false_or]
  · exact iff_of_true (decode_of_rsv_ne_zero hrsv) (.inl hrsv)

/-- Of the 256 words 245 are reserved: all but the eleven of the map. -/
theorem reserved_word_count :
    ((List.range 256).filter fun n => (decode (BitVec.ofNat 8 n)).isNone).length = 245 := by
  decide +kernel

end Sys2Proof
end

section
/-! Proofs of the statements on the encoding (spec/30_encoding.md), second part: assembler lines and command triples are
each other's inverse, and the pseudo-instructions. -/

namespace Sys2Proof

/-! ## Lines and triples -/

/-- What makes a line well formed: both operands fit the bus, and one that is not read is 0 (R80). -/
theorem Line.wellFormed_iff (w : Nat) (l : Line) :
    l.wellFormed w = true ↔
      l.opa < 2 ^ w ∧ l.opb < 2 ^ w ∧ (l.instr.format.readsOpa = true ∨ l.opa = 0) ∧
        (l.instr.format.readsOpb = true ∨ l.opb = 0) := by
  simp [Line.wellFormed, and_assoc]

/-- A well-formed line assembles to its word and its operands. -/
theorem assemble_of_wellFormed {w : Nat} {l : Line} (h : l.wellFormed w = true) :
    assemble w l =
      some { cmd := encode l.instr, opa := BitVec.ofNat w l.opa, opb := BitVec.ofNat w l.opb } :=
  if_pos h

/-- The line of a triple read as the command `i`: the operands its format reads, and 0 for the others (R73, R80). -/
def Command.line {w : Nat} (c : Command w) (i : Instr) : Line :=
  { instr := i
    opa := if i.format.readsOpa then c.opa.toNat else 0
    opb := if i.format.readsOpb then c.opb.toNat else 0 }

/-- A triple whose word is legal is written as the line of its command. -/
theorem disassemble_of_decode {w : Nat} {c : Command w} {i : Instr} (h : decode c.cmd = some i) :
    disassemble c = some (c.line i) := by
  simp only [disassemble, h, Command.line]

/-- A triple that is written as a line has a legal word, and the line is that of its command. -/
theorem decode_of_disassemble {w : Nat} {c : Command w} {l : Line} (h : disassemble c = some l) :
    ∃ i, decode c.cmd = some i ∧ l = c.line i := by
  rcases hd : decode c.cmd with _ | i
  · simp [disassemble, hd] at h
  · exact ⟨i, rfl, Option.some.inj (h.symm.trans (disassemble_of_decode hd))⟩

/-- An operand that fits its bus, and is 0 where the bus is not read, is read back as it was written. -/
theorem operand_readBack {w n : Nat} {reads : Bool} (hlt : n < 2 ^ w) (hunread : reads = true ∨ n = 0) :
    (if reads then (BitVec.ofNat w n).toNat else 0) = n := by
  cases reads with
  | true => exact Machine.toNat_ofNat_of_lt hlt
  | false => exact (hunread.resolve_left Bool.false_ne_true).symm

/-- The line of the triple a well-formed line assembles to is that line. -/
theorem Command.line_assembled {w : Nat} {l : Line} (hwf : l.wellFormed w = true) :
    Command.line ⟨encode l.instr, BitVec.ofNat w l.opa, BitVec.ofNat w l.opb⟩ l.instr = l := by
  obtain ⟨hopa, hopb, hunreadA, hunreadB⟩ := (l.wellFormed_iff w).1 hwf
  simp only [Command.line, operand_readBack hopa hunreadA, operand_readBack hopb hunreadB]

/-- Settles O4: the word decodes to the line's command, and each operand is read back. -/
theorem assembledLinesReadBack : Obligations.AssembledLinesReadBack := by
  intro w l hwf
  refine ⟨_, assemble_of_wellFormed hwf, ?_⟩
  rw [disassemble_of_decode (i := l.instr), Command.line_assembled hwf]
  exact decode_encode l.instr

/-- What is written of an operand bus fits it, and is 0 where the bus is not read. -/
theorem written_operand_wellFormed {w : Nat} (reads : Bool) (v : BitVec w) :
    (if reads then v.toNat else 0) < 2 ^ w ∧ (reads = true ∨ (if reads then v.toNat else 0) = 0) := by
  cases reads with
  | true => exact ⟨v.isLt, .inl rfl⟩
  | false => exact ⟨Nat.two_pow_pos w, .inr rfl⟩

/-- What is written of an operand bus assembles to the bus where it is read, and to 0 elsewhere. -/
theorem written_operand_assembled {w : Nat} (reads : Bool) (v : BitVec w) :
    BitVec.ofNat w (if reads then v.toNat else 0) = if reads then v else 0 := by
  cases reads with
  | true => exact (BitVec.ofNat_toNat w v).trans (BitVec.setWidth_eq v)
  | false => rfl

/-- The line a triple is written as is well formed, whatever stands on the buses. -/
theorem Command.line_wellFormed {w : Nat} (c : Command w) (i : Instr) : (c.line i).wellFormed w = true := by
  obtain ⟨hopa, hunreadA⟩ := written_operand_wellFormed i.format.readsOpa c.opa
  obtain ⟨hopb, hunreadB⟩ := written_operand_wellFormed i.format.readsOpb c.opb
  exact (Line.wellFormed_iff w (c.line i)).2 ⟨hopa, hopb, hunreadA, hunreadB⟩

/-- Settles O5: the word is that of the decoded command, and each operand is written from its bus. -/
theorem disassembledTriplesAssembleBack : Obligations.DisassembledTriplesAssembleBack := by
  intro w c l h
  obtain ⟨i, hd, rfl⟩ := decode_of_disassemble h
  have hwf := c.line_wellFormed i
  refine ⟨hwf, (assemble_of_wellFormed hwf).trans ?_⟩
  simp only [Command.line, encode_of_decode hd, written_operand_assembled]
  rfl

/-! ## Pseudo-instructions -/

/-- NEXT32 is NEXT where O = 32 and has no expansion elsewhere (R81). -/
theorem expandPseudo_next32 (v : Variant) :
    expandPseudo v .next32 = if v.outWidth = 32 then some (lineOf .next) else none := by
  simp [expandPseudo, Pseudo.wellFormed]

/-- NEXT64 is NEXT2 where O = 32 and NEXT where O = 64, the two cases R81 gives it. -/
theorem expandPseudo_next64 {v : Variant} (ho : v.outWidth = 32 ∨ v.outWidth = 64) :
    expandPseudo v .next64 = some (if v.outWidth = 32 then lineOf .next2 else lineOf .next) :=
  if_pos (by simp [Pseudo.wellFormed, ho])

/-- A jump back is written as the complement of its distance, where the distance fits the bus (R73, R81). -/
theorem expandPseudo_back {v : Variant} {c : Nat} (hlt : c < 2 ^ v.stateWidth) :
    expandPseudo v (.back c) =
      some { instr := .jump, opa := if c = 0 then 0 else 2 ^ v.stateWidth - c, opb := 0 } :=
  if_pos (decide_eq_true hlt)

/-- Settles O6: the expansion of each pseudo-instruction, under the check its row makes. -/
theorem pseudoInstructionsExpand : Obligations.PseudoInstructionsExpand := by
  intro v
  refine ⟨fun a s ha hs => ?_, fun a ha => ?_, rfl, rfl, fun c hpos hlt => ?_, ?_, fun ho => ?_, fun ho => ?_,
    fun ho => ?_, fun ho => ?_⟩
  · exact if_pos (by simp [Pseudo.wellFormed, ha, hs])
  · exact if_pos (decide_eq_true ha)
  · rw [expandPseudo_back hlt, if_neg (Nat.ne_of_gt hpos)]
  · rw [expandPseudo_back (Nat.two_pow_pos _), if_pos rfl]
  · rw [expandPseudo_next32, if_pos ho]
    rfl
  · rw [expandPseudo_next32, if_neg ho]
  · rw [expandPseudo_next64 (.inl ho), if_pos ho]
    rfl
  · rw [expandPseudo_next64 (.inr ho), if_neg (by omega)]
    rfl

end Sys2Proof
end

section
/-! Proofs of the statements on the encoding (spec/30_encoding.md), third part: what an accepted word does. Unread operand
buses have no influence, a reserved word has no effect but its error response, and every word gets one response. -/

namespace Sys2Proof.Machine

/-! ## Operand buses -/

/-- A command reads only the operand buses of its format: other values on the rest show in the port alone (R72, R73). -/
theorem exec_withUnreadOperands (i : Instr) (s : State) (a b : BitVec s.cfg.w) :
    ∃ (t : State) (p : Transaction t.cfg.w), exec i s = .next t ∧
      exec i (s.withOperands (if i.format.readsOpa then s.port.opa else a)
        (if i.format.readsOpb then s.port.opb else b)) = .next { t with port := p } := by
  cases i with
  | initX | restore => exact ⟨_, _, rfl, rfl⟩
  | initS | jump | fill => exact ⟨_, _, rfl, rfl⟩
  | initD | next | next2 | peek | rdstate | rdinc => exact ⟨_, _, rfl, rfl⟩

/-- Settles O7: the two answers differ in the port alone. -/
theorem unreadOperandBusesAreIgnored : Obligations.UnreadOperandBusesAreIgnored := by
  intro i s a b
  obtain ⟨t, p, ht, hu⟩ := exec_withUnreadOperands i s a b
  exact ⟨t, _, ht, hu, sameBlockAndOutputs_withPort t p⟩

/-! ## Reserved words -/

/-- A step on a reserved word raises IllegalCommand, noted by the host. -/
theorem step_command_reserved {s : State} {t : Transaction s.cfg.w} {rest : List (HostEvent s.cfg.w)}
    (hs : s.script = .command t :: rest) (hd : decode t.cmd = none) : step s = .next (s.accept t).raiseIllegal.note :=
  (step_event s _ rest hs).trans (runAccepted_reserved (s.accept t) hd)

/-- The state a reserved word leaves, field by field (R76, R221). -/
theorem raiseIllegal_accept_note {s : State} {t : Transaction s.cfg.w} {rest : List (HostEvent s.cfg.w)}
    (hs : s.script = .command t :: rest) :
    (s.accept t).raiseIllegal.note =
      { s with
        port := t, script := rest, rsp := some { err := true, data := 0 }, bytes := []
        record := s.record ++ [{ rsp := some { err := true, data := 0 }, bytes := [] }], illegalSeen := true } := by
  rw [accept_of_script s t hs]
  rfl

/-- Settles O3: the five conditions, the count, and the step on a reserved word field by field. -/
theorem reservedWordsAreRefusedWithoutEffect : Obligations.ReservedWordsAreRefusedWithoutEffect := by
  refine ⟨decode_eq_none_iff, reserved_word_count, by decide, by decide, fun s t rest hs hd => ?_⟩
  exact ⟨_, _, (step_command_reserved hs hd).trans (congrArg _ (raiseIllegal_accept_note hs))⟩

/-! ## One response for each word -/

/-- Settles O46, the mark being the choice of notes/assumptions/4.md: a reserved word answers the error, a legal one what
its command answers, which is no error. -/
theorem oneResponsePerCommand : Obligations.OneResponsePerCommand := by
  intro s t rest hs
  rcases hd : decode t.cmd with _ | i
  · exact ⟨_, _, _, _, _, _, (step_command_reserved hs hd).trans (congrArg _ (raiseIllegal_accept_note hs)),
      by simp, fun _ => ⟨rfl, rfl⟩, by simp⟩
  · obtain ⟨u, hu, hstep⟩ := stepRunsTheDecodedCommand s t rest i hs hd
    obtain ⟨st, hi, it, r, bs, hexec, herr, -⟩ :=
      commandsWriteOnlyWhatTheTableSays i { s with port := t, script := rest, rsp := none, bytes := [] }
    obtain rfl := Host.Outcome.next.inj (hu.symm.trans hexec)
    exact ⟨st, hi, it, r, bs, s.illegalSeen, hstep, by simp [herr], by simp [herr], by simp⟩

end Sys2Proof.Machine
end

section
/-! Proofs of the statements on the state engine (spec/40_state_engine.md), first part: `advance` and its repetition as
ring expressions in `BitVec w`, and the doubling iterator. -/

namespace Sys2Proof.Machine

variable {w : Nat}

/-! ## One step -/

/-- Settles O9: the reductions inside the sum do not change the last one. -/
theorem advanceIsMultiplyAddMod : Obligations.AdvanceIsMultiplyAddMod := by
  intro w mult s c
  have hprod : (advance mult s c).toNat = (s.toNat * mult.toNat % 2 ^ w + c.toNat) % 2 ^ w := by
    rw [advance, BitVec.toNat_add, BitVec.toNat_mul]
  exact ⟨hprod.trans (Nat.mod_add_mod _ _ _), hprod⟩

/-- Settles O10: the rule's table, evaluated. -/
theorem advanceWorkedValues : Obligations.AdvanceWorkedValues := by
  unfold Obligations.AdvanceWorkedValues
  decide

/-- The integer identity of R102 for a half of size `n`: the product `sh * mh` of the high halves is a multiple of
`n * n` and is dropped, and the low sum carries into the high half. -/
theorem halves_mul_add_mod (n mh ml sh sl ch cl : Nat) :
    ((sl + n * sh) * (ml + n * mh) + (cl + n * ch)) % (n * n) =
      (sl * ml % n + cl) % n +
        n * ((sl * ml / n + sl * mh + sh * ml + ch + (sl * ml % n + cl) / n) % n) := by
  rcases Nat.eq_zero_or_pos n with rfl | hn
  · simp
  have hsplit : (sl + n * sh) * (ml + n * mh) + (cl + n * ch) =
      (sl * ml % n + cl) + n * (sl * ml / n + sl * mh + sh * ml + ch + n * (sh * mh)) := by
    have hlow := (Nat.mod_add_div (sl * ml) n).symm
    linear_combination hlow
  rw [Nat.mod_mul, hsplit, Nat.add_mul_mod_self_left, Nat.add_mul_div_left _ _ hn, ← Nat.add_assoc,
    Nat.add_mul_mod_self_left, Nat.add_comm (_ / n)]

/-- The whole product of two halves fits twice their width. -/
theorem toNat_mul_setWidth_double {h : Nat} (x y : BitVec h) :
    (x.setWidth (h + h) * y.setWidth (h + h)).toNat = x.toNat * y.toNat := by
  have hlt : x.toNat * y.toNat < 2 ^ (h + h) := pow_add 2 h h ▸ Nat.mul_lt_mul'' x.isLt y.isLt
  have hle : h ≤ h + h := Nat.le_add_left h h
  rw [BitVec.toNat_mul, BitVec.toNat_setWidth_of_le hle, BitVec.toNat_setWidth_of_le hle, Nat.mod_eq_of_lt hlt]

/-- The sum of two halves fits one bit more than their width. -/
theorem toNat_add_setWidth_succ {h : Nat} (x y : BitVec h) :
    (x.setWidth (h + 1) + y.setWidth (h + 1)).toNat = x.toNat + y.toNat := by
  have hlt : x.toNat + y.toNat < 2 ^ (h + 1) := by omega
  have hle : h ≤ h + 1 := Nat.le_succ h
  rw [BitVec.toNat_add, BitVec.toNat_setWidth_of_le hle, BitVec.toNat_setWidth_of_le hle, Nat.mod_eq_of_lt hlt]

/-- The low `h` bits of a value are the remainder by `2 ^ h`. -/
theorem toNat_extractLsb'_low {n : Nat} (h : Nat) (x : BitVec n) : (x.extractLsb' 0 h).toNat = x.toNat % 2 ^ h := by
  rw [BitVec.extractLsb'_toNat, Nat.shiftRight_zero]

/-- The bits of a value from `h` up to its end are the quotient by `2 ^ h`. -/
theorem toNat_extractLsb'_high {h k : Nat} (x : BitVec (h + k)) : (x.extractLsb' h k).toNat = x.toNat / 2 ^ h := by
  rw [BitVec.extractLsb'_toNat, Nat.shiftRight_eq_div_pow, Nat.mod_eq_of_lt]
  exact Nat.div_lt_of_lt_mul (pow_add 2 h k ▸ x.isLt)

/-- The number two halves stand for. -/
theorem toNat_append_halves {h : Nat} (hi lo : BitVec h) : (hi ++ lo).toNat = lo.toNat + 2 ^ h * hi.toNat := by
  rw [BitVec.toNat_append, Nat.shiftLeft_eq, Nat.mul_comm, ← Nat.two_pow_add_eq_or_of_lt lo.isLt, Nat.add_comm]

/-- The construction of R102 read as numbers: no part of it wraps before it is cut to its half. -/
theorem advanceHalves_toNat {h : Nat} (mh ml sh sl ch cl : BitVec h) :
    (advanceHalves mh ml sh sl ch cl).toNat =
      (sl.toNat * ml.toNat % 2 ^ h + cl.toNat) % 2 ^ h +
        2 ^ h * ((sl.toNat * ml.toNat / 2 ^ h + sl.toNat * mh.toNat + sh.toNat * ml.toNat + ch.toNat +
          (sl.toNat * ml.toNat % 2 ^ h + cl.toNat) / 2 ^ h) % 2 ^ h) := by
  simp only [advanceHalves, toNat_append_halves, BitVec.toNat_add, BitVec.toNat_mul, BitVec.toNat_setWidth]
  simp only [toNat_extractLsb'_low, toNat_extractLsb'_high, toNat_add_setWidth_succ, toNat_mul_setWidth_double,
    Nat.add_mod_mod, Nat.mod_add_mod]

/-- Settles O11: both sides are the integer identity of R102 for halves of size `2 ^ h`. -/
theorem halvesComputeAdvance : Obligations.HalvesComputeAdvance := by
  intro h mh ml sh sl ch cl
  apply BitVec.eq_of_toNat_eq
  have hsum : (advance (mh ++ ml) (sh ++ sl) (ch ++ cl)).toNat =
      ((sl.toNat + 2 ^ h * sh.toNat) * (ml.toNat + 2 ^ h * mh.toNat) + (cl.toNat + 2 ^ h * ch.toNat)) %
        (2 ^ h * 2 ^ h) := by
    rw [(advanceIsMultiplyAddMod _ _ _ _).1, toNat_append_halves, toNat_append_halves, toNat_append_halves, pow_add]
  rw [advanceHalves_toNat, hsum, halves_mul_add_mod]

/-! ## The closed form -/

/-- A(k) is the power in the ring `BitVec w`. -/
theorem multPower_eq_pow (m : BitVec w) (k : Nat) : multPower m k = m ^ k := by
  induction k with
  | zero => exact (pow_zero m).symm
  | succ k ih => rw [multPower_succ, ih, pow_succ]

/-- A is multiplicative: steps compose. -/
theorem multPower_add (m : BitVec w) (j k : Nat) : multPower m (j + k) = multPower m j * multPower m k := by
  simp only [multPower_eq_pow, pow_add]

/-- G of a sum of distances: the second sum is shifted by the first power. -/
theorem geomSum_add (m : BitVec w) (j k : Nat) :
    geomSum m (j + k) = geomSum m j + multPower m j * geomSum m k := by
  induction k with
  | zero => simp
  | succ k ih =>
    rw [← Nat.add_assoc, geomSum_succ, geomSum_succ, ih, multPower_add]
    ring

/-- The geometric sum telescopes: `G(k) * (MULT - 1) = A(k) - 1` (R106). -/
theorem geomSum_mul_sub_one (m : BitVec w) (k : Nat) : geomSum m k * (m - 1) = multPower m k - 1 := by
  induction k with
  | zero => simp
  | succ k ih =>
    rw [geomSum_succ, multPower_succ, add_mul, ih]
    ring

/-- A(k) as a number (R105). -/
theorem multPower_toNat (m : BitVec w) (k : Nat) : (multPower m k).toNat = m.toNat ^ k % 2 ^ w := by
  rw [multPower_eq_pow, BitVec.toNat_pow]

/-- G(k) as a number (R105). -/
theorem geomSum_toNat (m : BitVec w) (k : Nat) :
    (geomSum m k).toNat = (∑ j ∈ Finset.range k, m.toNat ^ j) % 2 ^ w := by
  induction k with
  | zero => simp
  | succ k ih => rw [geomSum_succ, BitVec.toNat_add, ih, multPower_toNat, Finset.sum_range_succ, ← Nat.add_mod]

/-- `advance` applied `k` times is the affine map with A(k) and G(k) (R105). -/
theorem advanceBy_eq_affine (m c s : BitVec w) (k : Nat) :
    advanceBy m c k s = multPower m k * s + geomSum m k * c := by
  induction k generalizing s with
  | zero => simp
  | succ k ih =>
    rw [advanceBy_succ, ih, multPower_succ, geomSum_succ, advance]
    ring

/-- Settles O15. -/
theorem advanceByClosedForm : Obligations.AdvanceByClosedForm := fun _ mult c s k =>
  ⟨advanceBy_eq_affine mult c s k, multPower_toNat mult k, geomSum_toNat mult k, multPower_zero mult,
    geomSum_zero mult⟩

/-! ## The doubling iterator -/

/-- What the iterator holds when the distance consumed is `a`, its next power is that of `n` steps, and `d` is left. -/
def Iterator.holding (m c : BitVec w) (a n : Nat) (d : BitVec w) : Iterator w :=
  { accMult := multPower m a
    accPlus := geomSum m a * c
    curMult := multPower m n
    curPlus := geomSum m n * c
    delta := d }

/-- A pass adds the power's `n` steps to the distance consumed if bit 0 of what is left is set, and doubles the
power. -/
theorem iteratorPass_holding (m c : BitVec w) (a n : Nat) (d : BitVec w) :
    iteratorPass (Iterator.holding m c a n d) =
      Iterator.holding m c (a + (d.getLsbD 0).toNat * n) (n + n) (d >>> 1) := by
  have hdouble : (multPower m n + 1) * (geomSum m n * c) = geomSum m (n + n) * c := by
    rw [geomSum_add]
    ring
  have hadd : geomSum m a * c * multPower m n + geomSum m n * c = geomSum m (a + n) * c := by
    rw [Nat.add_comm, geomSum_add]
    ring
  unfold Iterator.holding iteratorPass
  rw [hdouble, hadd, ← multPower_add, ← multPower_add]
  cases d.getLsbD 0 <;> simp

/-- After `j` passes the distance consumed is the low `j` bits of the whole (R108). -/
theorem iteratorPass_iterate_load (m c k : BitVec w) (j : Nat) :
    iteratorPass^[j] (iteratorLoad m c k) = Iterator.holding m c (k.toNat % 2 ^ j) (2 ^ j) (k >>> j) := by
  induction j with
  | zero => simp [iteratorLoad, Iterator.holding, Nat.mod_one, multPower, geomSum]
  | succ j ih =>
    have hbit : k.toNat % 2 ^ j + ((k >>> j).getLsbD 0).toNat * 2 ^ j = k.toNat % 2 ^ (j + 1) := by
      rw [Nat.mod_pow_succ, BitVec.getLsbD_ushiftRight, Nat.add_zero, BitVec.getLsbD, Nat.toNat_testBit, Nat.mul_comm]
    rw [Function.iterate_succ_apply', ih, iteratorPass_holding, hbit, ← Nat.two_mul, ← Nat.pow_succ',
      ← BitVec.shiftRight_add]

/-- A number that is not 0 has one more significant bit than its half. -/
theorem size_eq_size_half_succ {n : Nat} (hn : n ≠ 0) : n.size = (n / 2).size + 1 := by
  have hbit : Nat.bit (n.testBit 0) (n / 2) = n := Nat.bit_testBit_zero_shiftRight_one n
  calc n.size = (Nat.bit (n.testBit 0) (n / 2)).size := by rw [hbit]
    _ = (n / 2).size + 1 := Nat.size_bit (hbit.symm ▸ hn)

/-- With enough fuel the loop makes one pass for each significant bit of DELTA (R107, R108). -/
theorem iteratorLoop_eq_iterate {fuel : Nat} {r : Iterator w} (h : r.delta.toNat.size ≤ fuel) :
    iteratorLoop fuel r = iteratorPass^[r.delta.toNat.size] r := by
  induction fuel generalizing r with
  | zero => rw [Nat.le_zero.mp h]; rfl
  | succ fuel ih =>
    by_cases hz : r.delta = 0
    · rw [iteratorLoop_of_delta_zero _ r hz, hz]
      rfl
    · have hpass : r.delta.toNat.size = (iteratorPass r).delta.toNat.size + 1 := by
        rw [iteratorPass_delta, BitVec.toNat_ushiftRight, Nat.shiftRight_one]
        exact size_eq_size_half_succ fun h0 => hz (BitVec.eq_of_toNat_eq h0)
      rw [iteratorLoop_of_delta_ne fuel r hz, ih (by omega), hpass, Function.iterate_succ_apply]

/-- A distance of W bits has at most W significant bits. -/
theorem size_toNat_le (k : BitVec w) : k.toNat.size ≤ w := Nat.size_le.mpr k.isLt

/-- The registers at the end of a jump by `k`: the whole distance is consumed (R107). -/
theorem iteratorRun_eq_holding (m c k : BitVec w) :
    iteratorRun m c k = Iterator.holding m c k.toNat (2 ^ k.toNat.size) 0 := by
  have hlt : k.toNat < 2 ^ k.toNat.size := Nat.lt_size_self _
  have hdelta : k >>> k.toNat.size = 0 := by
    apply BitVec.eq_of_toNat_eq
    rw [BitVec.toNat_ushiftRight, Nat.shiftRight_eq_div_pow, Nat.div_eq_of_lt hlt]
    rfl
  calc iteratorRun m c k = iteratorPass^[k.toNat.size] (iteratorLoad m c k) :=
        iteratorLoop_eq_iterate (size_toNat_le k)
    _ = Iterator.holding m c k.toNat (2 ^ k.toNat.size) 0 := by
        rw [iteratorPass_iterate_load, Nat.mod_eq_of_lt hlt, hdelta]

/-- Settles O17: each pass consumes one bit of the distance, from the lowest up. -/
theorem iteratorPassesHoldPowersOfAdvance : Obligations.IteratorPassesHoldPowersOfAdvance := by
  intro w mult c k
  refine ⟨fun j _ => iteratorPass_iterate_load mult c k j, iteratorLoop_eq_iterate (size_toNat_le k),
    size_toNat_le k, ?_⟩
  rw [iteratorRun_eq_holding]
  rfl

/-- The iterator's result is `advance` applied `k` times (R105, R107). -/
theorem iteratorResult_iteratorRun (m c k s : BitVec w) :
    iteratorResult (iteratorRun m c k) s = advanceBy m c k.toNat s := by
  rw [iteratorRun_eq_holding, advanceBy_eq_affine]
  rfl

/-- Settles O18: the exit values are those of the whole distance. -/
theorem iteratorComputesAdvanceBy : Obligations.IteratorComputesAdvanceBy := by
  intro w mult c k s
  have hrun := iteratorRun_eq_holding mult c k
  exact ⟨congrArg Iterator.accMult hrun, congrArg Iterator.accPlus hrun, iteratorResult_iteratorRun mult c k s⟩

/-- Settles O19: the rule's table, evaluated pass by pass. -/
theorem iteratorTraceForFive : Obligations.IteratorTraceForFive := by
  unfold Obligations.IteratorTraceForFive
  decide

end Sys2Proof.Machine
end

section
/-! Proofs of the statements on the state engine (spec/40_state_engine.md), second part: units, the period of a stream,
and the jump distances at the edges. -/

namespace Sys2Proof.Machine

variable {w : Nat}

/-! ## Odd values -/

/-- Bit 0 is the parity. -/
theorem getLsbD_zero_iff_odd (x : BitVec w) : x.getLsbD 0 = true ↔ x.toNat % 2 = 1 := by
  rw [BitVec.getLsbD, Nat.testBit_zero, decide_eq_true_iff]

/-- A value with bit 0 set has a bit. -/
theorem width_pos_of_getLsbD_zero {x : BitVec w} (h : x.getLsbD 0 = true) : 0 < w := by
  rcases Nat.eq_zero_or_pos w with rfl | hw
  · exact absurd h (by simp)
  · exact hw

/-- A product is odd when both factors are. -/
theorem getLsbD_zero_mul (x y : BitVec w) : (x * y).getLsbD 0 = (x.getLsbD 0 && y.getLsbD 0) := by
  rcases Nat.eq_zero_or_pos w with rfl | hw
  · simp
  · rw [Bool.eq_iff_iff, Bool.and_eq_true, getLsbD_zero_iff_odd, getLsbD_zero_iff_odd, getLsbD_zero_iff_odd,
      BitVec.toNat_mul, Nat.mod_mod_of_dvd _ (dvd_pow_self 2 hw.ne'), ← Nat.odd_iff, ← Nat.odd_iff, ← Nat.odd_iff,
      Nat.odd_mul]

/-- A sum is odd when exactly one summand is. -/
theorem getLsbD_zero_add (x y : BitVec w) : (x + y).getLsbD 0 = (x.getLsbD 0 ^^ y.getLsbD 0) := by
  rcases Nat.eq_zero_or_pos w with rfl | hw
  · simp
  · rw [BitVec.getLsbD_add hw, BitVec.carry_zero, Bool.xor_false]

/-- MULT - 1 is even for odd MULT. -/
theorem getLsbD_zero_sub_one {x : BitVec w} (h : x.getLsbD 0 = true) : (x - 1).getLsbD 0 = false := by
  have hsum : (x - 1 + 1).getLsbD 0 = true := by rwa [sub_add_cancel]
  rw [getLsbD_zero_add] at hsum
  simpa [width_pos_of_getLsbD_zero h] using hsum

/-- An odd value is a unit of the ring `BitVec w`. -/
theorem isUnit_of_odd {x : BitVec w} (h : x.getLsbD 0 = true) : IsUnit x := by
  have hcop : Nat.Coprime x.toNat (2 ^ w) :=
    (Nat.coprime_two_right.mpr (Nat.odd_iff.mpr ((getLsbD_zero_iff_odd x).mp h))).pow_right w
  have hlt : 1 < 2 ^ w := Nat.one_lt_two_pow (width_pos_of_getLsbD_zero h).ne'
  obtain ⟨y, hy, hxy⟩ := Nat.exists_mul_mod_eq_one_of_coprime hcop hlt
  refine IsUnit.of_mul_eq_one (BitVec.ofNat w y) (BitVec.eq_of_toNat_eq ?_)
  rw [BitVec.toNat_mul, toNat_ofNat_of_lt hy, hxy]
  exact (Nat.mod_eq_of_lt hlt).symm

/-- Settles O12: multiplication by a unit and addition of c are bijections. -/
theorem advanceIsBijective : Obligations.AdvanceIsBijective := by
  intro w mult c hodd
  have hmul : Function.Bijective fun s : BitVec w => s * mult :=
    IsUnit.isUnit_iff_mulRight_bijective.mp (isUnit_of_odd hodd)
  exact (Equiv.addRight c).bijective.comp hmul

/-! ## The quotient and the geometric sum -/

/-- An even value has no inverse. -/
theorem not_exists_inverse_of_even {x : BitVec w} (hw : 0 < w) (h : x.getLsbD 0 = false) : ¬ ∃ y, x * y = 1 := by
  rintro ⟨y, hxy⟩
  have hbit : (x * y).getLsbD 0 = true := by simp [hxy, hw]
  rw [getLsbD_zero_mul, h, Bool.false_and] at hbit
  exact Bool.false_ne_true hbit

/-- For MULT = 1 the sum counts its terms. -/
theorem geomSum_one (w k : Nat) : geomSum (1 : BitVec w) k = BitVec.ofNat w k := by
  induction k with
  | zero => rfl
  | succ k ih =>
    rw [geomSum_succ, multPower_eq_pow, one_pow, ih, BitVec.ofNat_add]
    rfl

/-- No stated multiplier is 1, and each is odd: they are 5 modulo 8. -/
theorem standardConfig_mult_ne_one_and_odd (v : Variant) (tap : OutTap) :
    (standardConfig v tap).mult ≠ 1 ∧ (standardConfig v tap).mult.getLsbD 0 = true := by
  obtain ⟨-, hodd, hmod, -⟩ := defaultParameterValues v tap
  refine ⟨fun hone => ?_, (getLsbD_zero_iff_odd _).mpr hodd⟩
  have hle : (standardConfig v tap).mult.toNat ≤ 1 := by
    rw [hone]
    exact Nat.mod_le 1 _
  omega

/-- Settles O16: the sum telescopes over the integers, while MULT - 1 is even. -/
theorem quotientIsTheGeometricSum : Obligations.QuotientIsTheGeometricSum :=
  ⟨fun m k hm => ⟨geom_sum_mul_of_one_le (by omega) k, Nat.geomSum_eq hm k⟩,
    fun _ _ hw hodd => not_exists_inverse_of_even hw (getLsbD_zero_sub_one hodd),
    geomSum_one, standardConfig_mult_ne_one_and_odd⟩

/-! ## The period -/

/-- For MULT ≡ 1 (mod 4) a sum of `2n` powers is the sum of `n` powers times 2 times an odd number: `m ^ n + 1` is 2
modulo 4. -/
theorem exists_geom_sum_double {m : Nat} (hm : m % 4 = 1) (n : Nat) : ∃ q,
    ∑ i ∈ Finset.range (n + n), m ^ i = 2 * ((∑ i ∈ Finset.range n, m ^ i) * (2 * q + 1)) := by
  have hpow : m ^ n % 4 = 1 := by simp [Nat.pow_mod, hm]
  have hdiv : m ^ n = 4 * (m ^ n / 4) + 1 := by omega
  have hshift : ∑ i ∈ Finset.range n, m ^ (n + i) = m ^ n * ∑ i ∈ Finset.range n, m ^ i := by
    simp only [pow_add, Finset.mul_sum]
  refine ⟨m ^ n / 4, ?_⟩
  rw [Finset.sum_range_add, hshift]
  generalize ∑ i ∈ Finset.range n, m ^ i = g
  linear_combination g * hdiv

/-- A sum of `n` powers of an odd number has the parity of `n`. -/
theorem geom_sum_mod_two {m : Nat} (hm : m % 2 = 1) (n : Nat) : (∑ i ∈ Finset.range n, m ^ i) % 2 = n % 2 := by
  induction n with
  | zero => rfl
  | succ n ih =>
    have hpow : m ^ n % 2 = 1 := by simp [Nat.pow_mod, hm]
    rw [Finset.sum_range_succ]
    omega

/-- For MULT ≡ 1 (mod 4) a sum of `n` powers has exactly as many factors 2 as `n`: both lose one when `n` is halved. -/
theorem two_pow_dvd_geom_sum_iff {m : Nat} (hm : m % 4 = 1) (j n : Nat) :
    2 ^ j ∣ ∑ i ∈ Finset.range n, m ^ i ↔ 2 ^ j ∣ n := by
  induction j generalizing n with
  | zero => simp
  | succ j ih =>
    have hparity := geom_sum_mod_two (by omega : m % 2 = 1) n
    rcases Nat.even_or_odd' n with ⟨t, rfl | rfl⟩
    · obtain ⟨q, hq⟩ := exists_geom_sum_double hm t
      have hcop : Nat.Coprime (2 ^ j) (2 * q + 1) := (by simp : Nat.Coprime 2 (2 * q + 1)).pow_left j
      rw [Nat.two_mul t, hq, ← Nat.two_mul, pow_succ', Nat.mul_dvd_mul_iff_left two_pos,
        Nat.mul_dvd_mul_iff_left two_pos, hcop.dvd_mul_right, ih]
    · have hodd : ∀ x, x % 2 = 1 → ¬ 2 ^ (j + 1) ∣ x := fun x hx hdvd => by
        have h2 : 2 ∣ x := (dvd_pow_self 2 j.succ_ne_zero).trans hdvd
        omega
      exact iff_of_false (hodd _ (by omega)) (hodd _ (by omega))

/-- For MULT ≡ 1 (mod 4), G(n) is 0 exactly for the multiples of 2^W. -/
theorem geomSum_eq_zero_iff {m : BitVec w} (hm : m.toNat % 4 = 1) (n : Nat) : geomSum m n = 0 ↔ 2 ^ w ∣ n := by
  rw [← two_pow_dvd_geom_sum_iff hm, Nat.dvd_iff_mod_eq_zero, ← geomSum_toNat, BitVec.toNat_eq]
  rfl

/-- A multiplier that is 1 modulo 4 is odd. -/
theorem getLsbD_zero_of_mod_four {m : BitVec w} (hm : m.toNat % 4 = 1) : m.getLsbD 0 = true :=
  (getLsbD_zero_iff_odd m).mpr (by omega)

/-- How far `n` steps move the state: G(n) times the move of one step. -/
theorem advanceBy_eq_add (m c s : BitVec w) (n : Nat) :
    advanceBy m c n s = s + geomSum m n * ((m - 1) * s + c) := by
  have htel := geomSum_mul_sub_one m n
  rw [advanceBy_eq_affine]
  linear_combination -s * htel

/-- For odd c and MULT the move of one step is odd. -/
theorem getLsbD_zero_move {m c : BitVec w} (s : BitVec w) (hm : m.getLsbD 0 = true) (hc : c.getLsbD 0 = true) :
    ((m - 1) * s + c).getLsbD 0 = true := by
  rw [getLsbD_zero_add, getLsbD_zero_mul, getLsbD_zero_sub_one hm, hc]
  rfl

section
variable {m c : BitVec w} (hm : m.toNat % 4 = 1) (hc : c.getLsbD 0 = true)
include hm hc

/-- `n` steps return to the state exactly when 2^W divides `n`: an odd move is a unit, so only G(n) = 0 undoes it. -/
theorem advanceBy_eq_self_iff (s : BitVec w) (n : Nat) : advanceBy m c n s = s ↔ 2 ^ w ∣ n := by
  have hunit : IsUnit ((m - 1) * s + c) := isUnit_of_odd (getLsbD_zero_move s (getLsbD_zero_of_mod_four hm) hc)
  rw [advanceBy_eq_add, add_eq_left, hunit.mul_left_eq_zero, geomSum_eq_zero_iff hm]

/-- Whole periods do not move the state. -/
theorem advanceBy_mod_period (s : BitVec w) (n : Nat) : advanceBy m c (n % 2 ^ w) s = advanceBy m c n s := by
  have hperiod : advanceBy m c (2 ^ w * (n / 2 ^ w)) s = s :=
    (advanceBy_eq_self_iff hm hc s _).mpr (Nat.dvd_mul_right _ _)
  calc advanceBy m c (n % 2 ^ w) s = advanceBy m c (n % 2 ^ w) (advanceBy m c (2 ^ w * (n / 2 ^ w)) s) := by
        rw [hperiod]
    _ = advanceBy m c n s := by rw [← advanceBy_add, Nat.div_add_mod]

/-- Within one period no state is met twice. -/
theorem advanceBy_injective_on_period (s : BitVec w) :
    Function.Injective fun n : Fin (2 ^ w) => advanceBy m c n s := by
  have hle : ∀ i j : Fin (2 ^ w), i ≤ j → advanceBy m c i s = advanceBy m c j s → i = j := by
    intro i j hij heq
    have hback : advanceBy m c (j - i : Nat) (advanceBy m c i s) = advanceBy m c i s := by
      rw [← advanceBy_add, Nat.add_sub_cancel' hij, heq]
    have hzero : (j - i : Nat) = 0 :=
      Nat.eq_zero_of_dvd_of_lt ((advanceBy_eq_self_iff hm hc _ _).mp hback) (by omega)
    exact Fin.ext (by omega)
  intro i j heq
  rcases le_total i j with hij | hji
  · exact hle i j hij heq
  · exact (hle j i hji heq.symm).symm

/-- Every state is met within one period: there are as many states as steps. -/
theorem exists_advanceBy_eq (s x : BitVec w) : ∃ n, n < 2 ^ w ∧ advanceBy m c n s = x := by
  have hsurj := (Finite.injective_iff_surjective_of_equiv BitVec.equivFin.symm.toEquiv).mp
    (advanceBy_injective_on_period hm hc s)
  obtain ⟨n, hn⟩ := hsurj x
  exact ⟨n, n.isLt, hn⟩

end

/-- Settles O13. -/
theorem streamHasFullPeriod : Obligations.StreamHasFullPeriod := fun _ _ _ s hm hc =>
  ⟨advanceBy_eq_self_iff hm hc s, exists_advanceBy_eq hm hc s⟩

/-! ## The low bits -/

/-- The low bits of a step are a step of the low bits. -/
theorem setWidth_advance {j : Nat} (m s c : BitVec w) (hj : j ≤ w) :
    (advance m s c).setWidth j = advance (m.setWidth j) (s.setWidth j) (c.setWidth j) := by
  rw [advance, BitVec.setWidth_add _ _ hj, BitVec.setWidth_mul _ _ hj, advance]

/-- So are the low bits of `n` steps. -/
theorem setWidth_advanceBy {j : Nat} (m s c : BitVec w) (hj : j ≤ w) (n : Nat) :
    (advanceBy m c n s).setWidth j = advanceBy (m.setWidth j) (c.setWidth j) n (s.setWidth j) := by
  induction n generalizing s with
  | zero => rfl
  | succ n ih => rw [advanceBy_succ, advanceBy_succ, ih, setWidth_advance m s c hj]

/-- The low bits of a value that is 1 modulo 4, as many as there are, are 1 modulo 4. -/
theorem setWidth_mod_four {j : Nat} {m : BitVec w} (hj : 0 < j) (hm : m.toNat % 4 = 1) :
    (m.setWidth j).toNat % 4 = 1 := by
  rw [BitVec.toNat_setWidth]
  obtain rfl | hj2 : j = 1 ∨ 2 ≤ j := by omega
  · omega
  · rw [Nat.mod_mod_of_dvd _ (Nat.pow_dvd_pow 2 hj2 : 2 ^ 2 ∣ 2 ^ j), hm]

/-- Settles O14: the low bits are a generator of their own, whose period is that of its width. -/
theorem lowBitsAreASmallerGenerator : Obligations.LowBitsAreASmallerGenerator := by
  intro w j mult s c hj
  refine ⟨setWidth_advance mult s c hj, fun hm hc n => ?_⟩
  rcases Nat.eq_zero_or_pos j with rfl | hpos
  · exact iff_of_true (BitVec.eq_of_zero_length rfl) (one_dvd n)
  · have hodd : (c.setWidth j).getLsbD 0 = true := by simp [hpos, hc]
    rw [setWidth_advanceBy mult s c hj]
    exact advanceBy_eq_self_iff (setWidth_mod_four hpos hm) hodd (s.setWidth j) n

/-! ## Jump distances at the edges -/

/-- The value with only its top bit set. -/
def topBit (w : Nat) : BitVec w := BitVec.ofNat w (2 ^ (w - 1))

/-- The top bit as a number. -/
theorem topBit_toNat (hw : 0 < w) : (topBit w).toNat = 2 ^ (w - 1) :=
  toNat_ofNat_of_lt (Nat.pow_lt_pow_right one_lt_two (Nat.sub_lt hw one_pos))

/-- Of a multiple of 2^(W-1), the remainder by 2^W keeps only the parity of the factor. -/
theorem two_pow_pred_mul_mod (hw : 0 < w) (n : Nat) : 2 ^ (w - 1) * n % 2 ^ w = 2 ^ (w - 1) * (n % 2) := by
  rw [← Nat.mul_mod_mul_left, Nat.two_pow_pred_mul_two hw]

/-- Adding the top bit flips it: its carry falls out of the value. -/
theorem add_topBit_eq_xor (s : BitVec w) : s + topBit w = s ^^^ topBit w := by
  apply BitVec.eq_of_getLsbD_eq
  intro i hi
  have hlow : (topBit w).toNat % 2 ^ i = 0 := by
    rw [topBit_toNat (by omega)]
    exact Nat.mod_eq_zero_of_dvd (Nat.pow_dvd_pow 2 (by omega))
  have hcarry : BitVec.carry i s (topBit w) false = false := by
    simp [BitVec.carry, hlow, Nat.mod_lt]
  rw [BitVec.getLsbD_add hi, hcarry, Bool.xor_false, BitVec.getLsbD_xor]

/-- The top bit times an odd value is the top bit. -/
theorem topBit_mul_of_odd {x : BitVec w} (h : x.getLsbD 0 = true) : topBit w * x = topBit w := by
  have hw := width_pos_of_getLsbD_zero h
  apply BitVec.eq_of_toNat_eq
  rw [BitVec.toNat_mul, topBit_toNat hw, two_pow_pred_mul_mod hw, (getLsbD_zero_iff_odd x).mp h, Nat.mul_one]

/-- The top bit times an even value is 0. -/
theorem topBit_mul_of_even {x : BitVec w} (hw : 0 < w) (h : x.getLsbD 0 = false) : topBit w * x = 0 := by
  have hodd : ¬ x.toNat % 2 = 1 := fun hx => by simp [(getLsbD_zero_iff_odd x).mpr hx] at h
  have heven : x.toNat % 2 = 0 := Nat.mod_two_ne_one.mp hodd
  apply BitVec.eq_of_toNat_eq
  rw [BitVec.toNat_mul, topBit_toNat hw, two_pow_pred_mul_mod hw, heven, Nat.mul_zero]
  rfl

/-- For MULT ≡ 1 (mod 4), G(2^(W-1)) is the top bit: a multiple of 2^(W-1) that is not one of 2^W. -/
theorem geomSum_half_period {m : BitVec w} (hm : m.toNat % 4 = 1) (hw : 0 < w) :
    geomSum m (2 ^ (w - 1)) = topBit w := by
  have hhalf : 2 ^ w = 2 ^ (w - 1) * 2 := (Nat.two_pow_pred_mul_two hw).symm
  obtain ⟨t, ht⟩ := (two_pow_dvd_geom_sum_iff hm (w - 1) (2 ^ (w - 1))).mpr dvd_rfl
  have hodd : ¬ 2 ∣ t := by
    intro hdvd
    have hwhole : 2 ^ w ∣ ∑ i ∈ Finset.range (2 ^ (w - 1)), m.toNat ^ i := by
      rw [ht, hhalf]
      exact Nat.mul_dvd_mul_left _ hdvd
    have hle := Nat.le_of_dvd (Nat.two_pow_pos _) ((two_pow_dvd_geom_sum_iff hm w _).mp hwhole)
    have hpos := Nat.two_pow_pos (w - 1)
    omega
  apply BitVec.eq_of_toNat_eq
  rw [geomSum_toNat, ht, two_pow_pred_mul_mod hw, topBit_toNat hw, Nat.two_dvd_ne_zero.mp hodd, Nat.mul_one]

section
variable {m c : BitVec w} (hm : m.toNat % 4 = 1) (hw : 0 < w)
include hm hw

/-- A(2^(W-1)) = 1: the sum that telescopes to A - 1 is the top bit times an even value (R109). -/
theorem multPower_half_period : multPower m (2 ^ (w - 1)) = 1 := by
  have htel := geomSum_mul_sub_one m (2 ^ (w - 1))
  rw [geomSum_half_period hm hw, topBit_mul_of_even hw (getLsbD_zero_sub_one (getLsbD_zero_of_mod_four hm))] at htel
  exact sub_eq_zero.mp htel.symm

/-- Half a period adds the top bit times c (R109). -/
theorem advanceBy_half_period (s : BitVec w) : advanceBy m c (2 ^ (w - 1)) s = s + topBit w * c := by
  rw [advanceBy_eq_affine, multPower_half_period hm hw, geomSum_half_period hm hw, one_mul]

end

/-- Settles O20: the distances 0 and 1 are the definition's, 2^W is the period, and half of it flips the top bit. -/
theorem jumpDistancesAtTheEdges : Obligations.JumpDistancesAtTheEdges := by
  intro w m c s
  refine ⟨rfl, rfl, fun hm hc => ?_⟩
  have hw := width_pos_of_getLsbD_zero hc
  have hhalf := advanceBy_half_period (c := c) hm hw s
  refine ⟨(advanceBy_eq_self_iff hm hc s _).mpr dvd_rfl, fun j _ hj => ?_, multPower_half_period hm hw, hhalf, ?_⟩
  · rw [← advanceBy_add, Nat.add_sub_cancel' hj.le]
    exact (advanceBy_eq_self_iff hm hc s _).mpr dvd_rfl
  · rw [hhalf, topBit_mul_of_odd hc]
    exact add_topBit_eq_xor s

end Sys2Proof.Machine
end

section
/-! Proofs of the statements on the state engine (spec/40_state_engine.md), third part: JUMP, and the commands that come
to the same distance. -/

namespace Sys2Proof.Machine

/-! ## States that differ by a distance on the stream -/

/-- `t` is `s` with STATE advanced `k` times, whatever the iterator registers, the ports and the outputs of `t`; INC and
the host's side stay. -/
def AdvancedBy (k : Nat) (s t : State) : Prop :=
  ∃ it p rsp bytes,
    t = s.another (advanceBy s.cfg.mult s.inc k s.state) s.incHi it p rsp bytes s.record s.illegalSeen

/-- A state is at distance 0 from itself. -/
theorem advancedBy_zero (s : State) : AdvancedBy 0 s s :=
  ⟨s.iter, s.port, s.rsp, s.bytes, rfl⟩

/-- Distances add up. -/
theorem AdvancedBy.trans {j k : Nat} {s t u : State} (hst : AdvancedBy j s t) (htu : AdvancedBy k t u) :
    AdvancedBy (j + k) s u := by
  obtain ⟨it, p, rsp, bytes, rfl⟩ := hst
  obtain ⟨it', p', rsp', bytes', rfl⟩ := htu
  refine ⟨it', p', rsp', bytes', ?_⟩
  rw [advanceBy_add]
  rfl

/-- The configuration stays. -/
theorem AdvancedBy.cfg_eq {k : Nat} {s t : State} (h : AdvancedBy k s t) : t.cfg = s.cfg := by
  obtain ⟨it, p, rsp, bytes, rfl⟩ := h
  rfl

/-- Distances that come to the same STATE leave the same generator. -/
theorem AdvancedBy.sameBlock {j k : Nat} {s t u : State} (ht : AdvancedBy j s t) (hu : AdvancedBy k s u)
    (hjk : advanceBy s.cfg.mult s.inc j s.state = advanceBy s.cfg.mult s.inc k s.state) : SameBlock t u := by
  obtain ⟨it, p, rsp, bytes, rfl⟩ := ht
  obtain ⟨it', p', rsp', bytes', rfl⟩ := hu
  rw [hjk]
  exact ⟨it', p', rsp', bytes', s.record, s.illegalSeen, rfl⟩

/-! ## The distance of each command -/

/-- `respond()` answers 0 without error and changes nothing else (R13). -/
theorem respondNothing_eq_with (s : State) : s.respondNothing = { s with rsp := some { err := false, data := 0 } } := by
  rw [State.respondNothing_eq, State.respond]
  exact congrArg (fun r => { s with rsp := some r }) (okResponse_nothing s.cfg.rw)

/-- JUMP, field by field: STATE is advanced OPA times, the iterator registers are overwritten, the answer is 0
(R110). -/
theorem exec_jump_eq (s : State) :
    exec .jump s = .next
      { s with
        state := advanceBy s.cfg.mult s.inc s.port.opa.toNat s.state
        iter := iteratorRun s.cfg.mult s.inc s.port.opa
        rsp := some { err := false, data := 0 } } := by
  rw [exec_jump, respondNothing_eq_with, iteratorResult_iteratorRun]
  rfl

/-- JUMP goes the distance on OPA. -/
theorem exec_jump_withOperands (s : State) (a b : BitVec s.cfg.w) :
    ∃ t, exec .jump (s.withOperands a b) = .next t ∧ AdvancedBy a.toNat s t :=
  ⟨_, exec_jump_eq _, iteratorRun s.cfg.mult s.inc a, { s.port with opa := a, opb := b },
    some { err := false, data := 0 }, s.bytes, rfl⟩

/-- A JUMP line of a distance that fits the bus goes that distance. -/
theorem execLine_jump {s : State} {k : Nat} (hk : k < 2 ^ s.cfg.w) :
    ∃ t, execLine { instr := .jump, opa := k, opb := 0 } s = .next t ∧ AdvancedBy k s t := by
  have h := exec_jump_withOperands s (BitVec.ofNat s.cfg.w k) (BitVec.ofNat s.cfg.w 0)
  rwa [toNat_ofNat_of_lt hk] at h

/-- NEXT goes one position. -/
theorem execLine_next_advancedBy (s : State) :
    ∃ t, execLine { instr := .next, opa := 0, opb := 0 } s = .next t ∧ AdvancedBy 1 s t := by
  obtain ⟨p, r, h⟩ := execLine_next s
  rw [nextWord_state] at h
  exact ⟨_, h, s.iter, p, r, s.bytes, rfl⟩

/-- NEXT2 goes two positions. -/
theorem exec_next2_advancedBy (s : State) : ∃ t, exec .next2 s = .next t ∧ AdvancedBy 2 s t := by
  have h := exec_next2 s
  simp only [nextWord_state] at h
  exact ⟨_, h, s.iter, s.port, some _, s.bytes, rfl⟩

/-- ⌈n / b⌉ is n / b, and one more where `b` does not divide `n`. -/
theorem add_pred_div {b : Nat} (hb : 0 < b) (n : Nat) :
    (n + (b - 1)) / b = n / b + if n % b = 0 then 0 else 1 := by
  have hlt : b - 1 < b := Nat.sub_lt hb one_pos
  rw [Nat.add_div hb, Nat.div_eq_of_lt hlt, Nat.mod_eq_of_lt hlt]
  split_ifs <;> omega

/-- A fill of `n` bytes draws ⌈n / BPW⌉ words (R164). -/
theorem fillRun_state (cfg : Config) (c : BitVec cfg.w) (n : Nat) (st : BitVec cfg.w) :
    (fillRun cfg c n st).2 = advanceBy cfg.mult c ((n + (bytesPerWord cfg - 1)) / bytesPerWord cfg) st := by
  rw [add_pred_div (bytesPerWord_pos cfg)]
  by_cases hmod : n % bytesPerWord cfg = 0
  · rw [fillRun_whole cfg c n st hmod, fillWords_state, if_pos hmod, Nat.add_zero]
  · rw [fillRun_cut cfg c n st hmod, nextWord_state, fillWords_state, ← advanceBy_succ_last, if_neg hmod]

/-- ⌈8n / O⌉ is ⌈n / BPW⌉: a word is 8 * BPW bits. -/
theorem bits_ceilDiv_eq_bytes_ceilDiv (cfg : Config) (n : Nat) :
    (8 * n + (cfg.o - 1)) / cfg.o = (n + (bytesPerWord cfg - 1)) / bytesPerWord cfg := by
  have ho : cfg.o = 8 * bytesPerWord cfg := (Nat.mul_div_cancel' (Config.eight_dvd_o cfg)).symm
  have hpos := bytesPerWord_pos cfg
  have hnum : 8 * n + (cfg.o - 1) = 7 + 8 * (n + (bytesPerWord cfg - 1)) := by omega
  rw [hnum, ho, ← Nat.div_div_eq_div_mul, Nat.add_mul_div_left _ _ (by decide)]
  simp

/-- FILL of `n` bytes goes as many positions as it draws words. -/
theorem execLine_fill_advancedBy {s : State} {n : Nat} (hn : n < 2 ^ s.cfg.w) :
    ∃ t, execLine { instr := .fill, opa := n, opb := 0 } s = .next t ∧
      AdvancedBy ((8 * n + (s.cfg.o - 1)) / s.cfg.o) s t := by
  obtain ⟨p, r, h⟩ := execLine_fill s hn
  rw [fillRun_state, ← bits_ceilDiv_eq_bytes_ceilDiv] at h
  exact ⟨_, h, s.iter, p, r, _, rfl⟩

/-- `k` lines of one position each go `k` positions. -/
theorem execLines_replicate_advancedBy {l : Line}
    (hl : ∀ s, ∃ t, execLine l s = .next t ∧ AdvancedBy 1 s t) (k : Nat) (s : State) :
    ∃ t, execLines (List.replicate k l) s = .next t ∧ AdvancedBy k s t := by
  induction k generalizing s with
  | zero => exact ⟨s, rfl, advancedBy_zero s⟩
  | succ k ih =>
    obtain ⟨t, ht, hst⟩ := hl s
    obtain ⟨u, hu, htu⟩ := ih t
    exact ⟨u, (execLines_cons l _ ht).trans hu, Nat.add_comm 1 k ▸ hst.trans htu⟩

/-! ## JUMP -/

/-- The number of words of a FILL fits the operand bus. -/
theorem fill_positions_lt (cfg : Config) {n : Nat} (hn : n < 2 ^ cfg.w) :
    (8 * n + (cfg.o - 1)) / cfg.o < 2 ^ cfg.w := by
  rw [bits_ceilDiv_eq_bytes_ceilDiv]
  have hpos := bytesPerWord_pos cfg
  have hle : n ≤ bytesPerWord cfg * n := Nat.le_mul_of_pos_left n hpos
  exact ((Nat.div_le_iff_le_mul_add_pred hpos).mpr (Nat.add_le_add_right hle _)).trans_lt hn

/-- Every operand bus holds 2. -/
theorem two_lt_two_pow_w (cfg : Config) : 2 < 2 ^ cfg.w :=
  lt_two_pow_stateWidth cfg.variant (by decide)

/-- JUMP 2 leaves the block as NEXT2 does. -/
theorem jump_two_eq_next2 (s : State) : ∃ t u,
    execLine { instr := .jump, opa := 2, opb := 0 } s = .next t ∧ exec .next2 s = .next u ∧ SameBlock t u := by
  obtain ⟨t, ht, hst⟩ := execLine_jump (two_lt_two_pow_w s.cfg)
  obtain ⟨u, hu, hsu⟩ := exec_next2_advancedBy s
  exact ⟨t, u, ht, hu, hst.sameBlock hsu rfl⟩

/-- JUMP by a FILL's words leaves the block as the FILL does. -/
theorem jump_eq_fill (s : State) (n : Nat) (hn : n < 2 ^ s.cfg.w) : ∃ t u,
    execLine { instr := .jump, opa := (8 * n + (s.cfg.o - 1)) / s.cfg.o, opb := 0 } s = .next t ∧
    execLine { instr := .fill, opa := n, opb := 0 } s = .next u ∧ SameBlock t u := by
  obtain ⟨t, ht, hst⟩ := execLine_jump (fill_positions_lt s.cfg hn)
  obtain ⟨u, hu, hsu⟩ := execLine_fill_advancedBy hn
  exact ⟨t, u, ht, hu, hst.sameBlock hsu rfl⟩

/-- Settles O21: the iterator computes the jump, and NEXT2 and FILL go the distance the JUMP goes. -/
theorem jumpAdvancesByOpa : Obligations.JumpAdvancesByOpa :=
  ⟨by decide, rfl, by decide, fun s => ⟨_, exec_jump_eq s, jump_two_eq_next2 s, jump_eq_fill s⟩⟩

/-- JUMP k, k NEXTs and k JUMPs by 1 go the same distance (R111). -/
theorem jump_eq_nexts_eq_jumps (s : State) (k : Nat) (hk : k < 2 ^ s.cfg.w) : ∃ t u v,
    execLine { instr := .jump, opa := k, opb := 0 } s = .next t ∧
    execLines (List.replicate k { instr := .next, opa := 0, opb := 0 }) s = .next u ∧
    execLines (List.replicate k { instr := .jump, opa := 1, opb := 0 }) s = .next v ∧
    SameBlock t u ∧ SameBlock t v := by
  obtain ⟨t, ht, hst⟩ := execLine_jump hk
  obtain ⟨u, hu, hsu⟩ := execLines_replicate_advancedBy execLine_next_advancedBy k s
  obtain ⟨v, hv, hsv⟩ := execLines_replicate_advancedBy
    (fun s => execLine_jump (k := 1) ((Nat.lt_succ_self 1).trans (two_lt_two_pow_w s.cfg))) k s
  exact ⟨t, u, v, ht, hu, hv, hst.sameBlock hsu rfl, hst.sameBlock hsv rfl⟩

/-- JUMP a and then JUMP b is one JUMP, the distance counted modulo the period (R111). -/
theorem jump_jump_eq_jump (s : State) (hm : s.cfg.mult.toNat % 4 = 1) (a b : Nat) (ha : a < 2 ^ s.cfg.w)
    (hb : b < 2 ^ s.cfg.w) : ∃ t u,
    execLines [{ instr := .jump, opa := a, opb := 0 }, { instr := .jump, opa := b, opb := 0 }] s = .next t ∧
    execLine { instr := .jump, opa := (a + b) % 2 ^ s.cfg.w, opb := 0 } s = .next u ∧ SameBlock t u := by
  have hodd : s.inc.getLsbD 0 = true := (incrementIsAlwaysOdd s).1
  obtain ⟨r, hr, hsr⟩ := execLine_jump ha
  obtain ⟨t, ht, hrt⟩ := execLine_jump (s := r) (k := b) (hsr.cfg_eq ▸ hb)
  obtain ⟨u, hu, hsu⟩ := execLine_jump (s := s) (Nat.mod_lt (a + b) (Nat.two_pow_pos _))
  exact ⟨t, u, (execLines_cons _ _ hr).trans (execLines_cons _ _ ht), hu,
    (hsr.trans hrt).sameBlock hsu (advanceBy_mod_period hm hodd s.state (a + b)).symm⟩

/-- Settles O22: all these commands move the state along the stream alone, and the distances agree. -/
theorem jumpEqualsThatManyNexts : Obligations.JumpEqualsThatManyNexts := fun s =>
  ⟨jump_eq_nexts_eq_jumps s, jump_jump_eq_jump s⟩

end Sys2Proof.Machine
end

section
/-! Proofs of the statements on the output permutation (spec/41_output_permutation.md), first part: shifts, rotates and
xorshifts of words, and XSH_RR as a function of the bits from DS up. -/

namespace Sys2Proof.Machine

variable {w o : Nat}

/-! ## Shifts and rotates -/

/-- A logical right shift loses every bit exactly when the value is below the power of the shift. -/
theorem ushiftRight_eq_zero_iff_lt (x : BitVec w) (n : Nat) : x >>> n = 0 ↔ x.toNat < 2 ^ n := by
  rw [← BitVec.toNat_inj, BitVec.toNat_ushiftRight, Nat.shiftRight_eq_div_pow, BitVec.ofNat_eq_ofNat, BitVec.toNat_ofNat,
    Nat.zero_mod, Nat.div_eq_zero_iff_lt (Nat.two_pow_pos n)]

/-- Words that agree from bit `n` up agree once shifted by `n`. -/
theorem ushiftRight_eq_of_getLsbD_eq {x y : BitVec w} {n : Nat}
    (h : ∀ i, n ≤ i → i < w → x.getLsbD i = y.getLsbD i) : x >>> n = y >>> n := by
  refine BitVec.eq_of_getLsbD_eq fun i _ => ?_
  rw [BitVec.getLsbD_ushiftRight, BitVec.getLsbD_ushiftRight]
  by_cases hi : n + i < w
  · exact h _ (Nat.le_add_right n i) hi
  · rw [BitVec.getLsbD_of_ge x _ (Nat.not_lt.mp hi), BitVec.getLsbD_of_ge y _ (Nat.not_lt.mp hi)]

/-- Bit `i` of a word rotated right by `r` is bit `i + r`, around the end of the word (R12). -/
theorem getLsbD_rotateRight_eq_mod (x : BitVec o) (r : Nat) {i : Nat} (hi : i < o) :
    (x.rotateRight r).getLsbD i = x.getLsbD ((i + r) % o) := by
  have hr : r % o < o := Nat.mod_lt r (by omega)
  rw [BitVec.getLsbD_rotateRight, ← Nat.add_mod_mod i r o]
  by_cases h : i < o - r % o
  · rw [Nat.mod_eq_of_lt (show i + r % o < o by omega), Nat.add_comm i]
    simp [h]
  · have hwrap : (i + r % o) % o = i - (o - r % o) := by
      rw [Nat.mod_eq_sub_mod (by omega), Nat.mod_eq_of_lt (by omega)]
      omega
    simp [h, hi, hwrap]

/-- A rotate by a given amount loses nothing. -/
theorem rotateRight_inj {x y : BitVec o} {r : Nat} : x.rotateRight r = y.rotateRight r ↔ x = y := by
  refine ⟨fun h => BitVec.eq_of_getLsbD_eq fun j hj => ?_, fun h => h ▸ rfl⟩
  have hr : r % o < o := Nat.mod_lt r (by omega)
  have hback : ((j + (o - r % o)) % o + r) % o = j := by
    rw [Nat.mod_add_mod, ← Nat.add_mod_mod, show j + (o - r % o) + r % o = j + o by omega, Nat.add_mod_right,
      Nat.mod_eq_of_lt hj]
  have hbit := congrArg (fun z => z.getLsbD ((j + (o - r % o)) % o)) h
  have hlt : (j + (o - r % o)) % o < o := Nat.mod_lt _ (by omega)
  simpa only [getLsbD_rotateRight_eq_mod _ r hlt, hback] using hbit

/-- A rotate by 0 changes nothing. -/
theorem rotateRight_zero (x : BitVec o) : x.rotateRight 0 = x := by
  refine BitVec.eq_of_getLsbD_eq fun i hi => ?_
  rw [getLsbD_rotateRight_eq_mod x 0 hi, Nat.add_zero, Nat.mod_eq_of_lt hi]

/-! ## The top bits and the xorshift -/

/-- A state with its top `n` bits 0 chooses the amount 0. -/
theorem topBits_eq_zero {n : Nat} {s : BitVec w} (h : s.toNat < 2 ^ (w - n)) : topBits n s = 0 := by
  rw [topBits, (ushiftRight_eq_zero_iff_lt s _).mpr h]
  rfl

/-- A difference below the top `n` bits leaves the amount they choose. -/
theorem topBits_xor {n : Nat} (s : BitVec w) {d : BitVec w} (h : d.toNat < 2 ^ (w - n)) :
    topBits n (s ^^^ d) = topBits n s := by
  have hd : d >>> (w - n) = 0#w := (ushiftRight_eq_zero_iff_lt d _).mpr h
  rw [topBits, BitVec.ushiftRight_xor_distrib, hd, BitVec.xor_zero]
  rfl

/-- The xorshift is linear over exclusive or. -/
theorem foldDown_xor (n : Nat) (s d : BitVec w) : foldDown n (s ^^^ d) = foldDown n s ^^^ foldDown n d := by
  simp only [foldDown, BitVec.ushiftRight_xor_distrib]
  ac_rfl

/-- The xorshift commutes with a shift after it. -/
theorem foldDown_ushiftRight (n d : Nat) (s : BitVec w) : foldDown n s >>> d = foldDown n (s >>> d) := by
  rw [foldDown, foldDown, BitVec.ushiftRight_xor_distrib, ← BitVec.shiftRight_add, ← BitVec.shiftRight_add, Nat.add_comm]

/-- Bit `i` of a xorshift is the exclusive or of bits `i` and `i + n`. -/
theorem getLsbD_foldDown (n : Nat) (s : BitVec w) (i : Nat) :
    (foldDown n s).getLsbD i = (s.getLsbD i ^^ s.getLsbD (i + n)) := by
  rw [foldDown, BitVec.getLsbD_xor, BitVec.getLsbD_ushiftRight, Bool.xor_comm, Nat.add_comm]

/-- The low `o` bits of a xorshift and the bits from `o` up determine the word: bit `i` is found once bit `i + n` is, from
the top down. -/
theorem eq_of_setWidth_foldDown_eq {n : Nat} (hn : 0 < n) {x y : BitVec w}
    (hlow : (foldDown n x).setWidth o = (foldDown n y).setWidth o) (hhigh : x >>> o = y >>> o) : x = y := by
  suffices h : ∀ k i, w - i = k → x.getLsbD i = y.getLsbD i from BitVec.eq_of_getLsbD_eq fun i _ => h _ i rfl
  intro k
  induction k using Nat.strong_induction_on with
  | _ k ih =>
    intro i hk
    by_cases hw : w ≤ i
    · rw [BitVec.getLsbD_of_ge x i hw, BitVec.getLsbD_of_ge y i hw]
    by_cases ho : o ≤ i
    · have hbit := congrArg (fun z => z.getLsbD (i - o)) hhigh
      simpa only [BitVec.getLsbD_ushiftRight, Nat.add_sub_cancel' ho] using hbit
    · have hup : x.getLsbD (i + n) = y.getLsbD (i + n) := ih (w - (i + n)) (by omega) (i + n) rfl
      have hbit := congrArg (fun z => z.getLsbD i) hlow
      have hi : i < o := Nat.not_le.mp ho
      simpa [getLsbD_foldDown, hi, hup] using hbit

/-! ## XSH_RR -/

/-- Where the rotate field is the bits from DS + O up, XSH_RR reads the bits from DS up alone (R134). -/
theorem permuteXshRr_eq {k : XshRrConsts} (hk : w - k.selBits = k.downShift + o) (s : BitVec w) :
    permuteXshRr k o s =
      ((foldDown k.xorShift (s >>> k.downShift)).setWidth o).rotateRight (s >>> k.downShift >>> o).toNat := by
  rw [permuteXshRr, foldDown_ushiftRight, topBits, hk, BitVec.shiftRight_add]

/-- Which states with the same rotate amount XSH_RR takes to one word: those that agree from bit DS up. -/
theorem permuteXshRr_eq_iff {k : XshRrConsts} (hk : w - k.selBits = k.downShift + o) (hx : 0 < k.xorShift)
    {s s' : BitVec w} (htop : topBits k.selBits s = topBits k.selBits s') :
    permuteXshRr k o s = permuteXshRr k o s' ↔ s >>> k.downShift = s' >>> k.downShift := by
  have hrot : s >>> k.downShift >>> o = s' >>> k.downShift >>> o := by
    rw [← BitVec.shiftRight_add, ← BitVec.shiftRight_add, ← hk]
    exact BitVec.eq_of_toNat_eq htop
  rw [permuteXshRr_eq hk, permuteXshRr_eq hk, hrot, rotateRight_inj]
  exact ⟨fun h => eq_of_setWidth_foldDown_eq hx h hrot, fun h => by rw [h]⟩

/-- With the top B bits all 0 XSH_RR rotates by nothing (R137). -/
theorem permuteXshRr_of_topBits_zero (k : XshRrConsts) {s : BitVec w} (h : s.toNat < 2 ^ (w - k.selBits)) :
    permuteXshRr k o s = (foldDown k.xorShift s >>> k.downShift).setWidth o := by
  rw [permuteXshRr, topBits_eq_zero h, rotateRight_zero]

/-- A state below 2^DS gives 0 (R137). -/
theorem permuteXshRr_of_lt {k : XshRrConsts} (hk : w - k.selBits = k.downShift + o) {s : BitVec w}
    (h : s.toNat < 2 ^ k.downShift) : permuteXshRr k o s = 0 := by
  have hs : s >>> k.downShift = 0#w := (ushiftRight_eq_zero_iff_lt s _).mpr h
  rw [permuteXshRr_eq hk, hs]
  simp [foldDown, rotateRight_zero]

end Sys2Proof.Machine
end

section
/-! Proofs of the statements on the output permutation (spec/41_output_permutation.md), second part: XSH_RR in the standard
configurations. -/

namespace Sys2Proof.Machine

/-- The table of R134 by formula. -/
theorem xshRrValue_formula {v : Variant} (h : v.perm = .xshRr) :
    v.stateWidth = 2 * v.outWidth ∧ 2 ^ (xshRrValue v).selBits = v.outWidth ∧
    (xshRrValue v).xorShift = ((xshRrValue v).selBits + v.outWidth) / 2 ∧
    (xshRrValue v).downShift = v.outWidth - (xshRrValue v).selBits := by
  revert h
  cases v <;> decide

/-- The rotate field begins where the O bits from DS up end (R134). -/
theorem xshRrValue_rotate_field {v : Variant} (h : v.perm = .xshRr) :
    v.stateWidth - (xshRrValue v).selBits = (xshRrValue v).downShift + v.outWidth := by
  obtain ⟨hw, hb, -, hds⟩ := xshRrValue_formula h
  have hlt : (xshRrValue v).selBits < v.outWidth := hb ▸ Nat.lt_two_pow_self
  omega

/-- The xorshift of every standard XSH_RR configuration shifts. -/
theorem xshRrValue_xorShift_pos {v : Variant} (h : v.perm = .xshRr) : 0 < (xshRrValue v).xorShift := by
  revert h
  cases v <;> decide

/-- `permute` of a standard XSH_RR configuration is XSH_RR with the constants of R134. -/
theorem permute_standard_xshRr (v : Variant) (tap : OutTap) (h : v.perm = .xshRr) (s : BitVec v.stateWidth) :
    permute (standardConfig v tap) s = permuteXshRr (xshRrValue v) v.outWidth s :=
  permute_of_xshRr (standardConfig v tap) h s

/-- A standard XSH_RR configuration reads the bits from DS up alone (R134). -/
theorem permute_standard_eq_of_ushiftRight_eq {v : Variant} (tap : OutTap) (h : v.perm = .xshRr)
    {s s' : BitVec v.stateWidth} (hs : s >>> (xshRrValue v).downShift = s' >>> (xshRrValue v).downShift) :
    permute (standardConfig v tap) s = permute (standardConfig v tap) s' := by
  have hk := xshRrValue_rotate_field h
  rw [permute_standard_xshRr v tap h, permute_standard_xshRr v tap h, permuteXshRr_eq hk, permuteXshRr_eq hk, hs]

/-- Settles O23: the constants are those of the table, and `permute` is XSH_RR with them. -/
theorem xshRrConstantsAndFormula : Obligations.XshRrConstantsAndFormula := by
  intro v tap h
  obtain ⟨hw, hb, hxs, hds⟩ := xshRrValue_formula h
  exact ⟨hw, _, _, _, hb, hxs, hds, permute_standard_xshRr v tap h⟩

/-- Bit `i` of the word that the default configuration rotates (R135). -/
theorem getLsbD_default_xorshift (s : BitVec 64) {i : Nat} (hi : i < 32) :
    ((foldDown 18 s >>> 27).setWidth 32).getLsbD i = (s.getLsbD (i + 27) ^^ s.getLsbD (i + 45)) := by
  rw [BitVec.getLsbD_setWidth, BitVec.getLsbD_ushiftRight, getLsbD_foldDown, Nat.add_comm 27 i, Nat.add_assoc]
  simp [hi]

/-- Settles O24: bits of the xorshift and of the rotate; and the output reads the bits from DS = 27 up alone. -/
theorem defaultPermutationBitByBit : Obligations.DefaultPermutationBitByBit := by
  intro tap s out rot x
  have hout : out = x.rotateRight rot := permute_standard_xshRr .cfg64x32XshRr tap rfl s
  refine ⟨hout, fun i hi => getLsbD_default_xorshift s (by omega), fun i hlo hhi => ?_, fun i hi => ?_, fun s' hs' => ?_,
    by decide, by decide, by cases tap <;> decide⟩
  · have htop : s.getLsbD (i + 45) = false := BitVec.getLsbD_of_ge s _ (by omega)
    have hx : x.getLsbD i = (s.getLsbD (i + 27) ^^ s.getLsbD (i + 45)) := getLsbD_default_xorshift s (by omega)
    rw [hx, htop, Bool.xor_false]
  · rw [hout, getLsbD_rotateRight_eq_mod x rot hi]
  · have hs : s' >>> 27 = s >>> 27 := ushiftRight_eq_of_getLsbD_eq hs'
    exact permute_standard_eq_of_ushiftRight_eq tap rfl hs

/-- Settles O26: with the top B bits 0 the rotate is by nothing, and below 2^DS nothing is left to rotate. -/
theorem xshRrCornerCases : Obligations.XshRrCornerCases := by
  refine ⟨fun v tap s h => ⟨fun htop => ?_, fun hlow => ?_⟩, fun tap => ?_⟩
  · exact (permute_standard_xshRr v tap h s).trans (permuteXshRr_of_topBits_zero _ htop)
  · exact (permute_standard_xshRr v tap h s).trans (permuteXshRr_of_lt (xshRrValue_rotate_field h) hlow)
  · cases tap <;> decide

/-- Settles O25: XSH_RR with the constants of the two configurations, and the examples evaluated. -/
theorem wideAndNarrowXshRr : Obligations.WideAndNarrowXshRr := by
  intro tap
  refine ⟨permute_standard_xshRr .cfg128x64XshRr tap rfl, permute_standard_xshRr .cfg32x16XshRr tap rfl, ?_⟩
  cases tap <;> decide

end Sys2Proof.Machine
end

section
/-! Proofs of the statements on the output permutation (spec/41_output_permutation.md), third part: the function a
configuration carries where PERM is not XSH_RR, which states `permute` takes to one word, and PEEK. -/

namespace Sys2Proof.Machine

/-! ## The optional permutations -/

/-- `permute` of a standard configuration with another PERM is the stated function of the state (R141). -/
theorem permute_standard_optional (v : Variant) (tap : OutTap) (h : v.perm ≠ .xshRr) (s : BitVec v.stateWidth) :
    permute (standardConfig v tap) s = permuteFormula (optionalPermuteValue v) v.outWidth s :=
  permute_of_optional (standardConfig v tap) h s

/-- Two states have one output word exactly when the stated function takes them to one. -/
theorem permute_standard_optional_eq_iff (v : Variant) (tap : OutTap) (h : v.perm ≠ .xshRr)
    (s s' : BitVec v.stateWidth) :
    permute (standardConfig v tap) s = permute (standardConfig v tap) s' ↔
      permuteFormula (optionalPermuteValue v) v.outWidth s = permuteFormula (optionalPermuteValue v) v.outWidth s' :=
  Eq.congr (permute_standard_optional v tap h s) (permute_standard_optional v tap h s')

/-- XSH_RS 64→32 (R138). -/
theorem permuteFormula_xshRs (s : BitVec 64) :
    permuteFormula xshRsFormula 32 s = (foldDown 22 s >>> (22 + topBits 3 s)).setWidth 32 :=
  congrArg (BitVec.setWidth 32) (evalFormula_xshRs s)

/-- RXS_M_XS 64→64 (R139). -/
theorem permuteFormula_rxsMXs64 (s : BitVec 64) :
    permuteFormula (rxsMXsFormula 59 5 12605985483714917081 43) 64 s =
      foldDown 43 (foldDown (topBits 5 s + 5) s * 12605985483714917081#64) := by
  rw [permuteFormula, BitVec.setWidth_eq, evalFormula_rxsMXs64]
  rfl

/-- RXS_M_XS 32→32 (R139). -/
theorem permuteFormula_rxsMXs32 (s : BitVec 32) :
    permuteFormula (rxsMXsFormula 28 4 277803737 22) 32 s =
      foldDown 22 (foldDown (topBits 4 s + 4) s * 277803737#32) := by
  rw [permuteFormula, BitVec.setWidth_eq, evalFormula_rxsMXs32]
  rfl

/-- XSL_RR 128→64: the truncation that `permute` adds undoes the extension of the formula (R140). -/
theorem permuteFormula_xslRr (s : BitVec 128) :
    permuteFormula xslRrFormula 64 s = ((foldDown 64 s).setWidth 64).rotateRight (topBits 6 s) := by
  rw [permuteFormula, evalFormula_xslRr, BitVec.setWidth_setWidth_of_le _ (by decide), BitVec.setWidth_eq]
  rfl

/-- Settles O27: the formulas as the standard configurations carry them, and the examples evaluated. -/
theorem optionalPermutations : Obligations.OptionalPermutations := by
  refine fun tap => ⟨fun s => ?_, fun s => ?_, fun s => ?_, fun s => ?_, by cases tap <;> decide⟩
  · exact (permute_standard_optional .cfg64x32XshRs tap (by decide) s).trans (permuteFormula_xshRs s)
  · exact (permute_standard_optional .cfg64x64RxsMXs tap (by decide) s).trans (permuteFormula_rxsMXs64 s)
  · exact (permute_standard_optional .cfg32x32RxsMXs tap (by decide) s).trans (permuteFormula_rxsMXs32 s)
  · exact (permute_standard_optional .cfg128x64XslRr tap (by decide) s).trans (permuteFormula_xslRr s)

/-! ## Every function is carried by a formula -/

/-- The formula that looks the state up among `0, …, n - 1` and answers `g` of it. -/
def tableFormula (g : Nat → Nat) : Nat → Formula
  | 0 => .lit 0
  | n + 1 => .ifEq .state (.lit n) (.lit (g n)) (tableFormula g n)

/-- A state in the table evaluates to its entry. -/
theorem evalFormula_tableFormula {w n : Nat} (g : Nat → Nat) (hn : n ≤ 2 ^ w) {s : BitVec w} (hs : s.toNat < n) :
    evalFormula s (tableFormula g n) = BitVec.ofNat w (g s.toNat) := by
  induction n with
  | zero => exact absurd hs (Nat.not_lt_zero _)
  | succ n ih =>
    have hlit : (BitVec.ofNat w n).toNat = n := toNat_ofNat_of_lt hn
    by_cases hsn : s.toNat = n
    · have heq : evalFormula s .state = evalFormula s (.lit n) := BitVec.eq_of_toNat_eq (hsn.trans hlit.symm)
      rw [tableFormula, evalFormula_ifEq_of_eq s _ _ heq, evalFormula_lit, hsn]
    · have hne : evalFormula s .state ≠ evalFormula s (.lit n) := fun h => hsn ((congrArg BitVec.toNat h).trans hlit)
      rw [tableFormula, evalFormula_ifEq_of_ne s _ _ hne]
      exact ih (by omega) (by omega)

/-- No output is wider than the state (R10). -/
theorem outWidth_le_stateWidth (v : Variant) : v.outWidth ≤ v.stateWidth := by
  cases v <;> decide

/-- The table of all values of a function is a formula for it. -/
theorem exists_permuteFormula_eq {w o : Nat} (ho : o ≤ w) (f : BitVec w → BitVec o) :
    ∃ e : Formula, permuteFormula e o = f := by
  refine ⟨tableFormula (fun n => (f (BitVec.ofNat w n)).toNat) (2 ^ w), funext fun s => ?_⟩
  rw [permuteFormula, evalFormula_tableFormula _ le_rfl s.isLt, BitVec.setWidth_ofNat_of_le ho, BitVec.ofNat_toNat,
    BitVec.ofNat_toNat, BitVec.setWidth_eq, BitVec.setWidth_eq]

/-- Settles O57: a table of the function is a formula, and XSH_RR reads its constants alone. -/
theorem optionalPermuteIsAnyFunction : Obligations.OptionalPermuteIsAnyFunction := by
  refine fun cfg => ⟨fun h f => ?_, fun h e => funext fun s => ?_⟩
  · obtain ⟨e, he⟩ := exists_permuteFormula_eq (outWidth_le_stateWidth cfg.variant) f
    exact ⟨e, (funext (permute_of_optional { cfg with optionalPermute := e } h)).trans he⟩
  · exact (permute_of_xshRr { cfg with optionalPermute := e } h s).trans (permute_of_xshRr cfg h s).symm

/-! ## States with one output word -/

/-- A function to a narrower word takes two different words to one (R130). -/
theorem exists_ne_map_eq_of_width_lt {w o : Nat} (h : o < w) (f : BitVec w → BitVec o) :
    ∃ s s', s ≠ s' ∧ f s = f s' := by
  apply Fintype.exists_ne_map_eq_of_card_lt
  rw [← FinEnum.card_eq_fintypeCard, ← FinEnum.card_eq_fintypeCard, FinEnum.card_bitVec, FinEnum.card_bitVec]
  exact Nat.pow_lt_pow_right (by decide) h

/-- A shift that loses what the xorshift folds down leaves the shift alone. -/
theorem foldDown_ushiftRight_of_lt {w n m : Nat} {d : BitVec w} (h : d.toNat < 2 ^ (n + m)) :
    foldDown n d >>> m = d >>> m := by
  have hlost : d >>> n >>> m = 0#w := by
    rw [← BitVec.shiftRight_add]
    exact (ushiftRight_eq_zero_iff_lt d _).mpr h
  rw [foldDown, BitVec.ushiftRight_xor_distrib, hlost, BitVec.zero_xor]

/-- A truncation that keeps every set bit is 0 only for 0. -/
theorem setWidth_eq_zero_iff {w o : Nat} {x : BitVec w} (h : x.toNat < 2 ^ o) : x.setWidth o = 0 ↔ x = 0 := by
  rw [← BitVec.toNat_inj, ← BitVec.toNat_inj, BitVec.toNat_setWidth, Nat.mod_eq_of_lt h]
  simp

/-- A difference is lost in an exclusive or exactly when it is 0. -/
theorem xor_eq_left_iff {w : Nat} (x y : BitVec w) : x ^^^ y = x ↔ y = 0 := by
  rw [← BitVec.xor_right_inj (x := y) (y := 0) x, BitVec.ofNat_eq_ofNat, BitVec.xor_zero]

/-- XSH_RS loses a difference below bit 44 exactly when the data-dependent shift does (R138). -/
theorem permuteFormula_xshRs_xor_eq_iff (s : BitVec 64) {d : BitVec 64} (hd : d.toNat < 2 ^ 44) :
    permuteFormula xshRsFormula 32 (s ^^^ d) = permuteFormula xshRsFormula 32 s ↔ d.toNat < 2 ^ (22 + topBits 3 s) := by
  have htop : topBits 3 (s ^^^ d) = topBits 3 s := topBits_xor s (hd.trans (by decide))
  have hshift : (d >>> (22 + topBits 3 s)).toNat < 2 ^ 32 := by
    rw [BitVec.toNat_ushiftRight, Nat.shiftRight_add]
    have hle := Nat.shiftRight_le (d.toNat >>> 22) (topBits 3 s)
    omega
  have hlost : d.toNat < 2 ^ (22 + (22 + topBits 3 s)) := hd.trans_le (Nat.pow_le_pow_right (by decide) (by omega))
  rw [permuteFormula_xshRs, permuteFormula_xshRs, htop, foldDown_xor, BitVec.ushiftRight_xor_distrib,
    foldDown_ushiftRight_of_lt hlost, BitVec.setWidth_xor, xor_eq_left_iff, setWidth_eq_zero_iff hshift,
    ushiftRight_eq_zero_iff_lt]

/-- The two halves of a difference meet in the xorshift of XSL_RR (R140). -/
theorem setWidth_foldDown_append (hi lo : BitVec 64) : (foldDown 64 (hi ++ lo)).setWidth 64 = hi ^^^ lo := by
  refine BitVec.eq_of_getLsbD_eq fun i hlt => ?_
  have hge : ¬ i + 64 < 64 := by omega
  rw [BitVec.getLsbD_setWidth, getLsbD_foldDown, BitVec.getLsbD_append, BitVec.getLsbD_append, BitVec.getLsbD_xor]
  simp [hlt, hge, Bool.xor_comm]

/-- XSL_RR loses a difference outside the top 6 bits exactly when its halves are the same (R140). -/
theorem permuteFormula_xslRr_xor_eq_iff (s : BitVec 128) {hi : BitVec 64} (lo : BitVec 64) (hhi : hi.toNat < 2 ^ 58) :
    permuteFormula xslRrFormula 64 (s ^^^ (hi ++ lo)) = permuteFormula xslRrFormula 64 s ↔ hi = lo := by
  have hlt : (hi ++ lo).toNat < 2 ^ (128 - 6) := by
    rw [toNat_append_halves]
    omega
  rw [permuteFormula_xslRr, permuteFormula_xslRr, topBits_xor s hlt, rotateRight_inj, foldDown_xor, BitVec.setWidth_xor,
    setWidth_foldDown_append, xor_eq_left_iff, BitVec.ofNat_eq_ofNat, BitVec.xor_eq_zero_iff]

/-- Settles O28: each clause by what `permute` of the difference is, the last because the output is narrower. -/
theorem permuteIsNotInjective : Obligations.PermuteIsNotInjective := by
  refine fun tap => ⟨fun v s s' h htop => ?_, fun s d hd => ?_, fun s hi lo hhi => ?_, fun v h => ?_⟩
  · rw [permute_standard_xshRr v tap h, permute_standard_xshRr v tap h]
    exact permuteXshRr_eq_iff (xshRrValue_rotate_field h) (xshRrValue_xorShift_pos h) htop
  · exact (permute_standard_optional_eq_iff .cfg64x32XshRs tap (by decide) _ s).trans
      (permuteFormula_xshRs_xor_eq_iff s hd)
  · exact (permute_standard_optional_eq_iff .cfg128x64XslRr tap (by decide) _ s).trans
      (permuteFormula_xslRr_xor_eq_iff s lo hhi)
  · exact exists_ne_map_eq_of_width_lt h (permute (standardConfig v tap))

/-! ## PEEK -/

/-- What PEEK answers of `s`, written field by field (R142). -/
theorem exec_peek_eq (s : State) :
    exec .peek s =
      .next { s with rsp := some { err := false, data := (permute s.cfg s.state).setWidth s.cfg.rw } } := exec_peek s

/-- `permute` does not read OUT_TAP (R131), and PEEK does not read INC. -/
theorem peek_rsp_withTap (s : State) (tap : OutTap) (hi : BitVec (s.cfg.w - 1)) : ∃ t u,
    exec .peek s = .next t ∧ exec .peek ({ s with incHi := hi }.withTap tap) = .next u ∧
    (u.rsp.map fun r => r.data.toNat) = t.rsp.map fun r => r.data.toNat :=
  ⟨_, _, exec_peek s, exec_peek _, rfl⟩

/-- With OUT_TAP = NEW a PEEK right after a NEXT answers the same word and leaves the block as it is. -/
theorem peek_after_next (s : State) (h : s.cfg.outTap = .new) : ∃ t u,
    exec .next s = .next t ∧ exec .peek t = .next u ∧ SameBlockAndOutputs t u := by
  have hword : permute s.cfg (nextWord s.cfg s.inc s.state).2 = (nextWord s.cfg s.inc s.state).1 := by
    rw [nextWord_state, nextWord_word_new _ _ _ h]
  refine ⟨_, _, exec_next s, exec_peek _, s.iter, s.port, s.record, s.illegalSeen, ?_⟩
  exact congrArg (State.respond _) hword

/-- With OUT_TAP = OLD a PEEK right before a NEXT answers the same word. -/
theorem peek_before_next (s : State) (h : s.cfg.outTap = .old) : ∃ t u,
    exec .peek s = .next t ∧ exec .next t = .next u ∧
    (u.rsp.map fun r => r.data.toNat) = t.rsp.map fun r => r.data.toNat := by
  have hword : (nextWord s.cfg s.inc s.state).1 = permute s.cfg s.state := nextWord_word_old _ _ _ h
  refine ⟨_, _, exec_peek s, exec_next _, ?_⟩
  exact congrArg (fun x => some (okResponse s.cfg.rw x).data.toNat) hword

/-- Settles O29: PEEK answers `permute` of the state it finds, and NEXT that of the state its tap names. -/
theorem peekReturnsTheCurrentWord : Obligations.PeekReturnsTheCurrentWord :=
  ⟨by decide, rfl, by decide, fun s => ⟨exec_peek_eq s, peek_rsp_withTap s, peek_after_next s, peek_before_next s⟩⟩

end Sys2Proof.Machine
end

section
/-! Proofs of the statements on the generator (spec/42_generator_facade.md), first part: the word NEXT returns, the
states a run of NEXTs goes through, the two taps, and NEXT2. -/

namespace Sys2Proof.Machine

/-! ## The word of one draw -/

/-- How many positions past the state before the draw the tap takes its word: the new state is one on, the old state is
that state itself (R8). -/
def tapOffset : OutTap → Nat
  | .new => 1
  | .old => 0

/-- `next_word` returns `permute` of the state its tap names (R160). -/
theorem nextWord_word (cfg : Config) (c st : BitVec cfg.w) :
    (nextWord cfg c st).1 = permute cfg (advanceBy cfg.mult c (tapOffset cfg.outTap) st) := by
  cases htap : cfg.outTap with
  | new => exact nextWord_word_new cfg c st htap
  | old => exact nextWord_word_old cfg c st htap

/-- The state the tap names, the two cases of R160 written out. -/
theorem advanceBy_tapOffset {w : Nat} (mult c st : BitVec w) (tap : OutTap) :
    advanceBy mult c (tapOffset tap) st =
      match tap with
      | .new => st * mult + c
      | .old => st := by
  cases tap <;> rfl

/-- What NEXT leaves and answers, field by field (R160). -/
theorem exec_next_eq (s : State) :
    exec .next s = .next
      { s with
        state := advance s.cfg.mult s.state s.inc
        rsp := some (okResponse s.cfg.rw
          (permute s.cfg (advanceBy s.cfg.mult s.inc (tapOffset s.cfg.outTap) s.state))) } := by
  rw [exec_next, nextWord_state, nextWord_word]
  rfl

/-- Settles O30: one draw advances STATE, and its word is that of the state the tap names. -/
theorem nextAdvancesAndReturnsTheTappedWord : Obligations.NextAdvancesAndReturnsTheTappedWord := by
  refine ⟨by decide, rfl, by decide, by decide, fun s => ?_⟩
  rw [exec_next_eq, advanceBy_tapOffset]
  rfl

/-! ## Runs of NEXTs -/

/-- Settles O31: k NEXTs go k positions along the stream, which has full period since INC is odd. -/
theorem stateRepeatsOnlyAfterAWholePeriod : Obligations.StateRepeatsOnlyAfterAWholePeriod := by
  intro s k hm
  have hodd : s.inc.getLsbD 0 = true := (incrementIsAlwaysOdd s).1
  obtain ⟨t, ht, it, p, rsp, bytes, rfl⟩ := execLines_replicate_advancedBy execLine_next_advancedBy k s
  exact ⟨_, ht, BitVec.toNat_inj.trans (advanceBy_eq_self_iff hm hodd s.state k)⟩

/-- A NEXT line, its response included. -/
theorem execLine_next_rsp (s : State) : ∃ p,
    execLine { instr := .next, opa := 0, opb := 0 } s =
      .next (s.afterDraws (advance s.cfg.mult s.state s.inc) p
        (some (okResponse s.cfg.rw
          (permute s.cfg (advanceBy s.cfg.mult s.inc (tapOffset s.cfg.outTap) s.state)))) s.bytes) :=
  ⟨_, exec_next_eq _⟩

/-- `k + 1` NEXT lines leave the state `k + 1` positions on; the last response is the word that the tap takes `k`
positions on (R161). -/
theorem execLines_nexts_rsp (k : Nat) (s : State) : ∃ p,
    execLines (List.replicate (k + 1) { instr := .next, opa := 0, opb := 0 }) s =
      .next (s.afterDraws (advanceBy s.cfg.mult s.inc (k + 1) s.state) p
        (some (okResponse s.cfg.rw
          (permute s.cfg (advanceBy s.cfg.mult s.inc (k + tapOffset s.cfg.outTap) s.state)))) s.bytes) := by
  induction k generalizing s with
  | zero =>
    obtain ⟨p, h⟩ := execLine_next_rsp s
    rw [Nat.zero_add, Nat.zero_add]
    exact ⟨p, execLines_cons _ [] h⟩
  | succ k ih =>
    obtain ⟨p, h⟩ := execLine_next_rsp s
    obtain ⟨p', h'⟩ := ih (s.afterDraws (advance s.cfg.mult s.state s.inc) p _ s.bytes)
    rw [Nat.add_right_comm k 1 (tapOffset _)]
    exact ⟨p', (execLines_cons _ _ h).trans h'⟩

/-! ## The two taps -/

/-- The response bus holds a word. -/
theorem Config.o_le_rw (cfg : Config) : cfg.o ≤ cfg.rw :=
  (Nat.le_mul_of_pos_left cfg.o two_pos).trans (Nat.le_max_right _ _)

/-- A word comes through the response bus as the same number (R13). -/
theorem okResponse_word_toNat (cfg : Config) (x : BitVec cfg.o) : (okResponse cfg.rw x).data.toNat = x.toNat := by
  rw [okResponse_data, BitVec.toNat_setWidth_of_le (Config.o_le_rw cfg)]

/-- Settles O32: a change of tap changes no state and only the state that is permuted, so that the words of the two taps
stand one position apart; PEEK does not read the tap. -/
theorem tapsDifferByOnePosition : Obligations.TapsDifferByOnePosition := by
  refine ⟨by decide, fun s k => ?_⟩
  obtain ⟨pn, hn⟩ := execLines_nexts_rsp k (s.withTap .new)
  obtain ⟨po, ho⟩ := execLines_nexts_rsp k (s.withTap .old)
  have hword : ∀ x : BitVec s.cfg.o, some (false, (okResponse s.cfg.rw x).data.toNat) = some (false, x.toNat) :=
    fun x => congrArg (fun n => some (false, n)) (okResponse_word_toNat s.cfg x)
  exact ⟨_, _, _, _, hn, ho, exec_peek_eq _, exec_peek_eq _, rfl, rfl, hword _, hword _, hword _, hword _⟩

/-! ## NEXT2 -/

/-- Two words come through the response bus as one number, the second above the first (R162). -/
theorem okResponse_two_words_toNat (cfg : Config) (w₁ w₂ : BitVec cfg.o) :
    (okResponse cfg.rw (w₂ ++ w₁)).data.toNat = w₂.toNat * 2 ^ cfg.o + w₁.toNat := by
  have hle : cfg.o + cfg.o ≤ cfg.rw := Nat.two_mul cfg.o ▸ Nat.le_max_right _ _
  rw [okResponse_data, BitVec.toNat_setWidth_of_le hle, toNat_append_halves, Nat.mul_comm, Nat.add_comm]

/-- NEXT2 and two NEXTs draw the same two words and leave the same STATE (R162). -/
theorem next2_eq_next_next (s : State) : ∃ t1 t2 w1 w2, ∃ d : BitVec s.cfg.rw,
    exec .next s = .next t1 ∧ exec .next t1 = .next t2 ∧
    (t1.rsp.map fun r => r.data.toNat) = some w1 ∧ (t2.rsp.map fun r => r.data.toNat) = some w2 ∧
    w1 < 2 ^ s.cfg.o ∧ w2 < 2 ^ s.cfg.o ∧ d.toNat = w2 * 2 ^ s.cfg.o + w1 ∧
    exec .next2 s = .next
      { s with
        state := advanceBy s.cfg.mult s.inc 2 s.state
        rsp := some { err := false, data := d } } ∧
    t2.state.toNat = (advanceBy s.cfg.mult s.inc 2 s.state).toNat := by
  have hstate : (nextWord s.cfg s.inc (nextWord s.cfg s.inc s.state).2).2 = advanceBy s.cfg.mult s.inc 2 s.state := by
    rw [nextWord_state, nextWord_state]
    rfl
  have hword : ∀ x : BitVec s.cfg.o, some (okResponse s.cfg.rw x).data.toNat = some x.toNat :=
    fun x => congrArg some (okResponse_word_toNat s.cfg x)
  refine ⟨_, _, _, _, _, exec_next s, exec_next _, hword _, hword _, BitVec.isLt _, BitVec.isLt _,
    okResponse_two_words_toNat s.cfg _ _, ?_, congrArg BitVec.toNat hstate⟩
  rw [exec_next2, hstate]
  rfl

/-- Settles O33: NEXT2 draws as two NEXTs do, and concatenates the words they return. -/
theorem next2IsTwoNexts : Obligations.Next2IsTwoNexts :=
  ⟨by decide, rfl, by decide, by decide, next2_eq_next_next⟩

end Sys2Proof.Machine
end

section
/-! Proofs of the statements on the generator (spec/42_generator_facade.md), second part: the bytes of a FILL. -/

namespace Sys2Proof.Machine

/-- A fill of one word's bytes emits that word. -/
theorem fillRun_one_word (cfg : Config) (c st : BitVec cfg.w) :
    (fillRun cfg c (bytesPerWord cfg) st).1 = wordBytes (nextWord cfg c st).1 := by
  rw [fillRun_whole cfg c _ st (Nat.mod_self _), Nat.div_self (bytesPerWord_pos cfg)]
  exact List.append_nil _

/-- The first bytes of a fill are those of its first word, whole or cut (R163, R164). -/
theorem fillRun_getElem?_of_lt {cfg : Config} {n i : Nat} (hn : i < n) (hi : i < bytesPerWord cfg)
    (c st : BitVec cfg.w) :
    (fillRun cfg c n st).1[i]? = some ((nextWord cfg c st).1.extractLsb' (8 * i) 8) := by
  rw [← wordBytes_getElem? _ i hi]
  rcases Nat.lt_or_ge n (bytesPerWord cfg) with hlt | hge
  · have hmod : n % bytesPerWord cfg = n := Nat.mod_eq_of_lt hlt
    have hcut : n % bytesPerWord cfg ≠ 0 := by omega
    rw [fillRun_cut cfg c n st hcut, hmod, Nat.div_eq_of_lt hlt]
    exact List.getElem?_take_of_lt hn
  · obtain ⟨m, rfl⟩ := Nat.exists_eq_add_of_le hge
    rw [fillRun_add cfg c m st dvd_rfl, fillRun_one_word]
    exact List.getElem?_append_left ((wordBytes_length _).symm ▸ hi)

/-- `q` whole words of a fill advance STATE `q` times. -/
theorem fillRun_whole_state (cfg : Config) (c : BitVec cfg.w) (q : Nat) (st : BitVec cfg.w) :
    (fillRun cfg c (bytesPerWord cfg * q) st).2 = advanceBy cfg.mult c q st := by
  rw [fillRun_whole cfg c _ st (Nat.mul_mod_right _ _), Nat.mul_div_cancel_left q (bytesPerWord_pos cfg),
    fillWords_state]

/-- Byte `j` of a fill is byte j mod BPW of the word ⌊j / BPW⌋ positions on: after that many whole words it is among
the first bytes of the rest (R163). -/
theorem fillRun_getElem? {cfg : Config} {n j : Nat} (hj : j < n) (c st : BitVec cfg.w) :
    (fillRun cfg c n st).1[j]? = some ((nextWord cfg c
      (advanceBy cfg.mult c (j / bytesPerWord cfg) st)).1.extractLsb' (8 * (j % bytesPerWord cfg)) 8) := by
  have hsplit : bytesPerWord cfg * (j / bytesPerWord cfg) + j % bytesPerWord cfg = j := Nat.div_add_mod j _
  obtain ⟨m, rfl⟩ := Nat.exists_eq_add_of_le ((Nat.mul_div_le j (bytesPerWord cfg)).trans hj.le)
  have hm : j % bytesPerWord cfg < m := by omega
  have hidx : j - bytesPerWord cfg * (j / bytesPerWord cfg) = j % bytesPerWord cfg := by omega
  have hlen := fillRun_length cfg c (bytesPerWord cfg * (j / bytesPerWord cfg)) st
  rw [fillRun_add cfg c m st (Nat.dvd_mul_right _ _), fillRun_whole_state,
    List.getElem?_append_right (by omega), hlen, hidx]
  exact fillRun_getElem?_of_lt hm (Nat.mod_lt j (bytesPerWord_pos cfg)) c _

/-- What FILL leaves and answers, field by field (R163, R164). -/
theorem exec_fill_eq (s : State) :
    exec .fill s = .next
      { s with
        state := advanceBy s.cfg.mult s.inc ((s.port.opa.toNat + (s.cfg.o / 8 - 1)) / (s.cfg.o / 8)) s.state
        bytes := s.bytes ++ (fillRun s.cfg s.inc s.port.opa.toNat s.state).1
        rsp := some { err := false, data := 0 } } := by
  rw [exec_fill, respondNothing_eq_with, fillRun_state]
  rfl

/-- Settles O34: a fill emits as many bytes as it is told, each found in the word it falls into. -/
theorem fillEmitsTheWordsBytes : Obligations.FillEmitsTheWordsBytes :=
  ⟨by decide, rfl, by decide, fun s =>
    ⟨_, exec_fill_eq s, fillRun_length _ _ _ _, fun _ hj => fillRun_getElem? hj s.inc s.state⟩⟩

end Sys2Proof.Machine
end

section
/-! Proofs of the statements on seeding (spec/43_seed_construction.md): the increment of a selector, `init` as a map of
the seed, the three INITs, and what re-seeding forgets. -/

namespace Sys2Proof.Machine

variable {w : Nat}

/-! ## The increment of a selector -/

/-- Bit 0 of the increment is 1 (R181). -/
theorem getLsbD_zero_incOfSelector (hw : 0 < w) (sel : BitVec w) : (incOfSelector sel).getLsbD 0 = true := by
  simp [incOfSelector, hw]

/-- Bit j + 1 of the increment is bit j of the selector (R181). -/
theorem getLsbD_succ_incOfSelector (sel : BitVec w) {j : Nat} (hj : j + 1 < w) :
    (incOfSelector sel).getLsbD (j + 1) = sel.getLsbD j := by
  have hj' : j < w := by omega
  simp [incOfSelector, hj, hj']

/-- The increment as a number: the shift leaves bit 0 free, so the 1 is added without a carry (R180). -/
theorem incOfSelector_toNat (sel : BitVec w) : (incOfSelector sel).toNat = (2 * sel.toNat + 1) % 2 ^ w := by
  have hfree : (sel <<< 1) &&& 1#w = 0#w := by
    apply BitVec.eq_of_getLsbD_eq
    intro j _
    cases j <;> simp
  rw [incOfSelector, ← BitVec.add_eq_or_of_and_eq_zero _ _ hfree, BitVec.toNat_add, BitVec.toNat_shiftLeft,
    BitVec.toNat_ofNat, ← Nat.add_mod, Nat.shiftLeft_eq, pow_one, Nat.mul_comm]

/-- The increment is sel * 2 + 1 in the ring of W-bit values (R180). -/
theorem incOfSelector_eq_mul_two_add_one (sel : BitVec w) : incOfSelector sel = sel * 2#w + 1#w := by
  apply BitVec.eq_of_toNat_eq
  rw [incOfSelector_toNat]
  simp [Nat.mul_comm]

/-- Two selectors give the same increment exactly when they agree in all bits but the top one (R181). -/
theorem incOfSelector_eq_iff (hw : 0 < w) (sel sel' : BitVec w) :
    incOfSelector sel = incOfSelector sel' ↔ sel.toNat % 2 ^ (w - 1) = sel'.toNat % 2 ^ (w - 1) := by
  rw [← BitVec.toNat_inj, incOfSelector_toNat, incOfSelector_toNat, ← Nat.two_pow_pred_mul_two hw,
    Nat.mul_comm _ 2]
  exact ⟨fun h => Nat.ModEq.mul_left_cancel' two_ne_zero (Nat.ModEq.add_right_cancel' 1 h),
    fun h => (Nat.ModEq.mul_left' 2 h).add_right 1⟩

/-- The top bit of a selector falls out of the increment (R181). -/
theorem incOfSelector_add_topBit (hw : 0 < w) (sel : BitVec w) :
    incOfSelector (sel + topBit w) = incOfSelector sel := by
  have htwo : (2#w).getLsbD 0 = false := by simp [BitVec.getLsbD_ofNat]
  rw [incOfSelector_eq_mul_two_add_one, incOfSelector_eq_mul_two_add_one, add_mul,
    topBit_mul_of_even hw htwo, add_zero]

/-- Settles O37: bit by bit, and the top bit doubled is 0. -/
theorem selectorBitsOfTheIncrement : Obligations.SelectorBitsOfTheIncrement := by
  intro w mult seed sel sel' hw
  refine ⟨getLsbD_zero_incOfSelector hw sel, fun j hj => getLsbD_succ_incOfSelector sel hj,
    incOfSelector_eq_iff hw sel sel', ?_⟩
  change initPair mult seed (sel + topBit w) = initPair mult seed sel
  rw [initPair, incOfSelector_add_topBit hw, initPair]

/-! ## `init` as a map of the seed -/

/-- From state 0 one step gives the increment itself (R182). -/
theorem advance_zero_state (mult c : BitVec w) : advance mult 0 c = c := by
  rw [advance, zero_mul, zero_add]

/-- Settles O36: the increment as a number, one step as a number (R100), and the first of the two steps starts at 0. -/
theorem initFormula : Obligations.InitFormula := by
  intro w mult seed sel
  refine ⟨rfl, rfl, incOfSelector_toNat sel, ?_, advance_zero_state mult _, ?_⟩
  · rw [← BitVec.toNat_add]
    exact (advanceIsMultiplyAddMod w mult _ _).1
  · rw [advance_zero_state, add_comm]
    rfl

/-- Settles O38: adding the increment to the seed and stepping once are both bijections. -/
theorem seedingReachesEveryState : Obligations.SeedingReachesEveryState := fun w mult sel hodd =>
  (advanceIsBijective w mult (incOfSelector sel) hodd).comp (Equiv.addRight (incOfSelector sel)).bijective

/-! ## INIT.X, INIT.S, INIT.D -/

/-- `s` once an INIT of the given seed and selector has completed: `init` loaded into STATE and INC, the answer 0 without
error, and nothing else changed (R185 to R187). -/
def State.seeded (s : State) (seed sel : BitVec s.cfg.w) : State :=
  { s with
    state := (initPair s.cfg.mult seed sel).1
    incHi := incStore (initPair s.cfg.mult seed sel).2
    rsp := some { err := false, data := 0 } }

/-- INC then reads the increment of the selector: it is odd, so storing it loses nothing (R21, R180). -/
theorem seeded_inc (s : State) (seed sel : BitVec s.cfg.w) : (s.seeded seed sel).inc = incOfSelector sel :=
  (incRead_incStore _).trans (or_one_of_odd (getLsbD_zero_incOfSelector (Config.w_pos s.cfg) sel))

/-- Seeding and answering leave `s` seeded with the pair the multiplexer gives (R184). -/
theorem seedFrom_respondNothing {s : State} {src : SeedSource} {seed sel : BitVec s.cfg.w}
    (h : seedMux s.cfg s.port src = (seed, sel)) : (s.seedFrom src).respondNothing = s.seeded seed sel := by
  rw [respondNothing_eq_with, seedFrom_eq_load h]
  rfl

/-- INIT.X seeds with OPA and OPB (R185). -/
theorem exec_initX_eq (s : State) : exec .initX s = .next (s.seeded s.port.opa s.port.opb) := by
  rw [exec_initX, seedFrom_respondNothing (seedMux_explicit s.cfg s.port)]

/-- INIT.S seeds with OPA and the default stream (R186). -/
theorem exec_initS_eq (s : State) : exec .initS s = .next (s.seeded s.port.opa s.cfg.defaultStream) := by
  rw [exec_initS, seedFrom_respondNothing (seedMux_seedOnly s.cfg s.port)]

/-- With no entropy source INIT.D seeds with the fallback constants (R187). -/
theorem exec_initD_unavail {s : State} (h : s.port.ent.avail = false) :
    exec .initD s = .next (s.seeded s.cfg.fallbackSeed s.cfg.fallbackStream) := by
  rw [exec_initD, seedFrom_respondNothing ((seedMux_defaulted_unavail s.cfg s.port h).trans (seedMux_reset _ _))]

/-- INIT.D by the strap ENT_AVAIL (R187). -/
theorem exec_initD_eq (s : State) :
    exec .initD s = .next
      (if s.port.ent.avail then s.seeded s.port.ent.seed s.port.ent.stream
       else s.seeded s.cfg.fallbackSeed s.cfg.fallbackStream) := by
  cases h : s.port.ent.avail with
  | true =>
    rw [exec_initD, seedFrom_respondNothing (seedMux_defaulted_avail s.cfg s.port h)]
    rfl
  | false => exact exec_initD_unavail h

/-- An INIT.D with no entropy source puts the generator in its reset state (R38, R187). -/
theorem exec_initD_reset_values (s : State) (h : s.port.ent.avail = false) : ∃ u, exec .initD s = .next u ∧
    SameBlock { s with state := (State.resetOf s.cfg).state, incHi := (State.resetOf s.cfg).incHi } u :=
  ⟨_, exec_initD_unavail h, s.iter, s.port, some { err := false, data := 0 }, s.bytes, s.record, s.illegalSeen, rfl⟩

/-- Settles O39: each INIT seeds with the pair of its position of the multiplexer; the examples are evaluated. -/
theorem seedingCommandsLoadInit : Obligations.SeedingCommandsLoadInit :=
  ⟨by decide, by decide, by decide, rfl, by decide, by decide, by decide, by decide, by decide, by decide, by decide,
    fun s => ⟨exec_initX_eq s, exec_initS_eq s, exec_initD_eq s, exec_initD_reset_values s, seeded_inc s⟩⟩

/-! ## Re-seeding -/

/-- Settles O40: each of the four overwrites STATE and INC, with values from the ports and the configuration alone. -/
theorem reseedingForgetsTheOldGenerator : Obligations.ReseedingForgetsTheOldGenerator := by
  intro i s st hi h
  obtain rfl | rfl | rfl | rfl := h
  · exact ⟨_, exec_initX_eq s, exec_initX_eq _⟩
  · exact ⟨_, exec_initS_eq s, exec_initS_eq _⟩
  · exact ⟨_, exec_initD_eq s, exec_initD_eq _⟩
  · exact ⟨_, exec_restore s, exec_restore _⟩

end Sys2Proof.Machine
end

section
/-! Proofs of the statements on state access (spec/44_state_access.md): what the register reads answer, what RESTORE
leaves, and that a restored checkpoint goes on as the original. -/

namespace Sys2Proof.Machine

/-! ## Reading the registers -/

/-- A register comes through the response bus as the same number: RW is at least W (R10, R13). -/
theorem toNat_register_setWidth (cfg : Config) (v : BitVec cfg.w) : (v.setWidth cfg.rw).toNat = v.toNat :=
  BitVec.toNat_setWidth_of_le (Nat.le_max_left cfg.w _)

/-- INC is odd, and so is what RDINC answers (R21, R201). -/
theorem getLsbD_zero_rdinc (s : State) : (s.inc.setWidth s.cfg.rw).getLsbD 0 = true := by
  have hodd : s.inc.getLsbD 0 = true := (incrementIsAlwaysOdd s).1
  rw [getLsbD_zero_iff_odd, toNat_register_setWidth]
  exact (getLsbD_zero_iff_odd s.inc).mp hodd

/-- What RDSTATE answers, as a number (R200). -/
theorem rdstate_answer {s a : State} {x : Nat} (h : exec .rdstate s = .next a)
    (hx : (a.rsp.map fun r => r.data.toNat) = some x) : x = s.state.toNat := by
  obtain rfl : s.respond s.state = a := Host.Outcome.next.inj h
  exact (Option.some.inj hx).symm.trans (toNat_register_setWidth s.cfg s.state)

/-- What RDINC answers, as a number (R201). -/
theorem rdinc_answer {s b : State} {y : Nat} (h : exec .rdinc s = .next b)
    (hy : (b.rsp.map fun r => r.data.toNat) = some y) : y = s.inc.toNat := by
  obtain rfl : s.respond s.inc = b := Host.Outcome.next.inj h
  exact (Option.some.inj hy).symm.trans (toNat_register_setWidth s.cfg s.inc)

/-! ## RESTORE -/

/-- `s` once a RESTORE of the given values has completed: both registers loaded, the answer 0 without error, and nothing
else changed (R202). -/
def State.restored (s : State) (st c : BitVec s.cfg.w) : State :=
  { s with state := st, incHi := incStore c, rsp := some { err := false, data := 0 } }

/-- INC then reads the value restored with bit 0 forced to 1 (R21). -/
theorem restored_inc (s : State) (st c : BitVec s.cfg.w) : (s.restored st c).inc = c ||| 1#_ :=
  incRead_incStore c

/-- RESTORE loads OPA and OPB (R202). -/
theorem exec_restore_eq (s : State) : exec .restore s = .next (s.restored s.port.opa s.port.opb) := by
  rw [exec_restore, respondNothing_eq_with]
  rfl

/-- A RESTORE line of two register values loads them: written as numbers, they lose nothing. -/
theorem execLine_restore (s : State) (st c : BitVec s.cfg.w) :
    execLine { instr := .restore, opa := st.toNat, opb := c.toNat } s =
      .next ((s.withOperands st c).restored st c) := by
  have hread (v : BitVec s.cfg.w) : BitVec.ofNat s.cfg.w v.toNat = v := by
    rw [BitVec.ofNat_toNat, BitVec.setWidth_eq]
  change exec .restore (s.withOperands (BitVec.ofNat s.cfg.w st.toNat) (BitVec.ofNat s.cfg.w c.toNat)) = _
  rw [hread, hread]
  exact exec_restore_eq _

/-- Every STATE and every odd INC is what some RESTORE leaves (R202). -/
theorem execLine_restore_reaches (s : State) {x y : Nat} (hx : x < 2 ^ s.cfg.w) (hy : y < 2 ^ s.cfg.w)
    (hodd : y % 2 = 1) : ∃ t,
    execLine { instr := .restore, opa := x, opb := y } s = .next t ∧ t.state.toNat = x ∧ t.inc.toNat = y := by
  have hline := execLine_restore s (BitVec.ofNat s.cfg.w x) (BitVec.ofNat s.cfg.w y)
  have hbit : (BitVec.ofNat s.cfg.w y).getLsbD 0 = true := by
    rwa [getLsbD_zero_iff_odd, toNat_ofNat_of_lt hy]
  have hinc : (s.restored (BitVec.ofNat s.cfg.w x) (BitVec.ofNat s.cfg.w y)).inc = BitVec.ofNat s.cfg.w y :=
    (restored_inc s _ _).trans (or_one_of_odd hbit)
  rw [toNat_ofNat_of_lt hx, toNat_ofNat_of_lt hy] at hline
  exact ⟨_, hline, toNat_ofNat_of_lt hx, (congrArg BitVec.toNat hinc).trans (toNat_ofNat_of_lt hy)⟩

/-- Settles O42: the reads answer the registers, which fit the response bus, and RESTORE loads both; the examples are
evaluated. -/
theorem registerReadsAndRestore : Obligations.RegisterReadsAndRestore :=
  ⟨by decide, by decide, by decide, rfl, by decide, by decide, by decide, by decide, fun s =>
    ⟨exec_rdstate s, exec_rdinc s, getLsbD_zero_rdinc s, ⟨_, exec_restore_eq s, restored_inc s s.port.opa s.port.opb⟩,
      fun _ _ => execLine_restore_reaches s⟩⟩

/-! ## Checkpoints -/

/-- Any instance of the configuration and script of `s`, loaded with STATE and INC as `s` reads them, holds the generator
of `s`: storing INC as it reads gives back the stored bits (R21, R203). -/
theorem sameBlock_restored (s : State) (st : BitVec s.cfg.w) (hi : BitVec (s.cfg.w - 1)) (it : Iterator s.cfg.w)
    (p : Transaction s.cfg.w) (rsp : Option (Response s.cfg.rw)) (bytes : List Byte) (rec : List (Exchange s.cfg.rw))
    (mark : Bool) : SameBlock s ((s.another st hi it p rsp bytes rec mark).restored s.state s.inc) := by
  have hinc : incStore s.inc = s.incHi := incStore_incRead s.incHi
  refine ⟨it, p, some { err := false, data := 0 }, bytes, rec, mark, ?_⟩
  exact congrArg (fun h => s.another s.state h it p (some { err := false, data := 0 }) bytes rec mark) hinc

/-- Settles O43: the checkpoint is the pair of registers, restoring it makes `t` hold the generator of `s`, and from there
on the two are in the simulation of O50. -/
theorem checkpointResumesTheSequence : Obligations.CheckpointResumesTheSequence := by
  rintro s _ x y ⟨a, b, ha, hb, hx, hy⟩ ⟨st, hi, it, p, rsp, bytes, rec, mark, rfl⟩
  obtain rfl := rdstate_answer ha hx
  obtain rfl := rdinc_answer hb hy
  have hline := execLine_restore (s.another st hi it p rsp bytes rec mark) s.state s.inc
  have hsame := sameBlock_restored s st hi it { p with opa := s.state, opb := s.inc } rsp bytes rec mark
  exact ⟨_, hline, hsame, fun k => runSteps_sameBlock k hsame⟩

end Sys2Proof.Machine
end

section
/-! Proofs of the statements on errors and idling (spec/60_exceptions.md): no command fails, nothing moves while nothing
is presented, and every step keeps the noted record consistent. -/

namespace Sys2Proof.Machine

/-! ## Legal commands and the idle block -/

/-- Settles O44: the response that the table of writes gives every command is no error. -/
theorem noLegalCommandFails : Obligations.NoLegalCommandFails := by
  intro i s
  obtain ⟨st, hi, it, r, bs, hexec, herr, -⟩ := commandsWriteOnlyWhatTheTableSays i s
  exact ⟨_, _, hexec, rfl, herr⟩

/-- Settles O53: with an empty script the step idles. -/
theorem idleBlockHoldsItsRegisters : Obligations.IdleBlockHoldsItsRegisters :=
  step_idle

/-! ## The record of exchanges -/

/-- An exchange that reports no error has nothing to be consistent about. -/
theorem Exchange.consistent_of_reportsIllegal_eq_false {rw : Nat} {e : Exchange rw} (h : e.reportsIllegal = false) :
    e.consistent := by
  intro r hr herr
  have hreports : e.reportsIllegal = r.err := by simp only [Exchange.reportsIllegal, hr]
  simp [hreports, herr] at h

/-- Noting keeps the invariant when the outputs noted are consistent, and marked if they are an error. -/
theorem inv_note {s : State} (h : s.Inv) (hout : (Exchange.mk s.rsp s.bytes).consistent)
    (hmark : (Exchange.mk s.rsp s.bytes).reportsIllegal = true → s.illegalSeen = true) : s.note.Inv := by
  obtain ⟨hrecord, hseen⟩ := h
  constructor
  · intro e he
    obtain he | rfl := (mem_note_record s e).mp he
    · exact hrecord e he
    · exact hout
  · intro hany
    have heither := (any_note_record s Exchange.reportsIllegal).symm.trans hany
    exact (Bool.or_eq_true_iff.mp heither).elim hseen hmark

/-- Noting outputs that are no error keeps the invariant. -/
theorem inv_note_of_no_error {s : State} (h : s.Inv) (hno : (Exchange.mk s.rsp s.bytes).reportsIllegal = false) :
    s.note.Inv :=
  inv_note h (Exchange.consistent_of_reportsIllegal_eq_false hno) fun herr => absurd herr (by simp [hno])

/-- A legal command leaves record and mark as they are and answers no error, so noting it keeps the invariant (R220). -/
theorem inv_note_of_exec {i : Instr} {s u : State} (h : s.Inv) (hu : exec i s = .next u) : u.note.Inv := by
  obtain ⟨st, hi, it, r, bs, hexec, herr, -⟩ := commandsWriteOnlyWhatTheTableSays i s
  obtain rfl := Host.Outcome.next.inj (hexec.symm.trans hu)
  exact inv_note_of_no_error h herr

/-- IllegalCommand carries no data, leaves the bytes as they are and sets the mark; with no byte pending, noting it keeps
the invariant (R221). -/
theorem inv_note_raiseIllegal {s : State} (h : s.Inv) (hbytes : s.bytes = []) : s.raiseIllegal.note.Inv := by
  have hout : (Exchange.mk s.raiseIllegal.rsp s.raiseIllegal.bytes).consistent := by
    intro r hr _
    obtain rfl := Option.some.inj hr
    exact ⟨illegalResponse_data s.cfg.rw, hbytes⟩
  obtain ⟨hrecord, -⟩ := h
  exact inv_note ⟨hrecord, fun _ => s.raiseIllegal_illegalSeen⟩ hout fun _ => s.raiseIllegal_illegalSeen

/-- RST during a command gives no response and never clears the mark, so noting it keeps the invariant (R253). -/
theorem inv_note_abandon {s : State} (h : s.Inv) (taken : Nat) : (s.abandon taken).note.Inv := by
  obtain ⟨hrecord, hseen⟩ := h
  have hmark : s.record.any Exchange.reportsIllegal = true → (s.abandon taken).illegalSeen = true := fun hany =>
    Bool.or_eq_true_iff.mpr (.inl (hseen hany))
  exact inv_note_of_no_error (s := s.abandon taken) ⟨hrecord, hmark⟩ rfl

/-- Settles O48, the mark being the choice of notes/assumptions/4.md: by the cases of a step. Idling and RST between
commands touch neither record nor mark, and each of the other three notes one exchange. -/
theorem everyStepKeepsTheRecordConsistent : Obligations.EveryStepKeepsTheRecordConsistent := by
  intro s t h hstep
  have haccept (tr : Transaction s.cfg.w) : (s.accept tr).Inv := h
  obtain ⟨-, rfl⟩ | ⟨tr, rest, i, u, -, -, hu, rfl⟩ | ⟨tr, rest, -, -, rfl⟩ | ⟨rest, -, rfl⟩ |
    ⟨tr, taken, rest, -, rfl⟩ := step_cases hstep
  · exact h
  · exact inv_note_of_exec (haccept tr) hu
  · exact inv_note_raiseIllegal (haccept tr) (s.accept_bytes tr)
  · exact h
  · exact inv_note_abandon (haccept tr) taken

end Sys2Proof.Machine
end

section
/-! Proofs of the statements on reset (spec/70_reset_and_hazards.md): what RST leaves, between commands and during one,
and the invariant of the record in the state after reset. -/

namespace Sys2Proof.Machine

/-! ## RST between commands -/

/-- The state RST leaves, field by field: the reset values of the registers and no output (R250, R251). -/
theorem resetAction_takeEvent_of_script {s : State} {e : HostEvent s.cfg.w} {rest : List (HostEvent s.cfg.w)}
    (hs : s.script = e :: rest) :
    s.takeEvent.resetAction =
      { s with
        state := (State.resetOf s.cfg).state, incHi := (State.resetOf s.cfg).incHi
        iter := Iterator.afterReset s.cfg.w, rsp := none, bytes := [], script := rest } := by
  obtain rfl : s.script.tail = rest := by rw [hs, List.tail_cons]
  rfl

/-! ## RST during a command -/

/-- The state RST during a command leaves, field by field: as between commands, and the host notes the bytes it had
taken, without a response (R253). -/
theorem abandon_accept_note {s : State} (t : Transaction s.cfg.w) (taken : Nat) {e : HostEvent s.cfg.w}
    {rest : List (HostEvent s.cfg.w)} (hs : s.script = e :: rest) :
    ((s.accept t).abandon taken).note =
      { s with
        state := (State.resetOf s.cfg).state, incHi := (State.resetOf s.cfg).incHi
        iter := Iterator.afterReset s.cfg.w, port := t, rsp := none
        bytes := (bytesOffered (s.accept t)).take taken, script := rest
        record := s.record ++ [{ rsp := none, bytes := (bytesOffered (s.accept t)).take taken }]
        illegalSeen := s.illegalSeen || (decode t.cmd).isNone } := by
  rw [accept_of_script s t hs]
  rfl

/-- A FILL offers the bytes of its fill. -/
theorem bytesOffered_of_fill {s : State} (h : decode s.port.cmd = some .fill) :
    bytesOffered s = (fillRun s.cfg s.inc s.port.opa.toNat s.state).1 := by
  simp only [bytesOffered, h, opa]

/-- With no byte pending, the bytes a FILL offers are those it has emitted once it completes (R163). -/
theorem exec_fill_bytes_eq_bytesOffered {s : State} (hd : decode s.port.cmd = some .fill) (hbytes : s.bytes = []) :
    ∃ u, exec .fill s = .next u ∧ u.bytes = bytesOffered s := by
  refine ⟨_, exec_fill_eq s, ?_⟩
  simp only [bytesOffered_of_fill hd, hbytes, List.nil_append]

/-- Settles O52, its frame being the choices of notes/assumptions/4.md, 9.md, 16.md and 17.md: each of the two events
leaves the state that its lemma above writes out, and the fill whose first bytes are noted starts at the STATE and INC
of `s`, which accepting the word keeps. -/
theorem resetEventLoadsTheResetValues : Obligations.ResetEventLoadsTheResetValues := by
  intro s rest
  constructor
  · intro hs
    have hstep : step s = .next s.takeEvent.resetAction := step_event s _ rest hs
    exact ⟨_, hstep.trans (congrArg _ (resetAction_takeEvent_of_script hs))⟩
  · intro t taken hs
    have hstep : step s = .next ((s.accept t).abandon taken).note := step_event s _ rest hs
    refine ⟨_, _, _, hstep.trans (congrArg _ (abandon_accept_note t taken hs)),
      fun hd => ?_, fun hd => ?_, by simp⟩
    · rw [bytesOffered_of_not_fill (s.accept t) hd, List.take_nil]
    · have hoffered : bytesOffered { s with port := t, bytes := [] } = bytesOffered (s.accept t) := rfl
      obtain ⟨u, hu, hbytes⟩ := exec_fill_bytes_eq_bytesOffered (s := { s with port := t, bytes := [] }) hd rfl
      exact ⟨u, hu, by rw [hbytes, hoffered]⟩

/-! ## The state after reset -/

/-- Nothing has been noted yet, so the record is consistent in every configuration after reset. -/
theorem inv_resetOf (cfg : Config) : (State.resetOf cfg).Inv :=
  ⟨List.forall_mem_nil _, fun hany => nomatch hany⟩

/-- Settles O49: at reset the machine is in the default configuration. -/
theorem resetRecordIsConsistent : Obligations.ResetRecordIsConsistent :=
  inv_resetOf defaultConfig

end Sys2Proof.Machine
end
